-- ==== Sys2Proof/Word.lean ====
section
/-! DEFINITION. The word types of the machine (R4, R6) and nothing else. All values are unsigned. -/

namespace Sys2Proof

/-- An 8-bit value: a general register, a timer, a memory byte, an immediate `nn` (R4). -/
abbrev Byte := BitVec 8

/-- A 16-bit value: an instruction word, `I`, `pc`, a call-stack entry (R4). -/
abbrev Word := BitVec 16

/-- A 4-bit field: a register index `x` or `y`, a key index, the immediate `n`, the primary class (R61). -/
abbrev Nibble := BitVec 4

/-- A 12-bit address field `nnn` (R61). -/
abbrev Addr := BitVec 12

end Sys2Proof
end

