-- ==== Sys2Proof/Syntax.lean ====
section
/-! DEFINITION. The 34 instructions of R73 (spec/opcode_table.json), one constructor a row, in the table's order. Operand
fields keep the width and the names of R61: `x`, `y` register indices, `n` a 4-bit, `nn` an 8-bit immediate, `nnn` a 12-bit
address. -/

namespace Sys2Proof

/-- A decoded instruction with its operand fields (R63). -/
inductive Instr where
  /-- `00E0` clear the display (R150) -/
  | cls
  /-- `00EE` return from subroutine (R100) -/
  | ret
  /-- `0nnn` machine-call, any other word of class 0 (R101) -/
  | sys (nnn : Addr)
  /-- `1nnn` jump (R102) -/
  | jp (nnn : Addr)
  /-- `2nnn` call subroutine (R103) -/
  | call (nnn : Addr)
  /-- `3xnn` skip if register equals immediate (R111) -/
  | seImm (x : Nibble) (nn : Byte)
  /-- `4xnn` skip if register differs from immediate (R112) -/
  | sneImm (x : Nibble) (nn : Byte)
  /-- `5xy0` skip if registers equal (R113) -/
  | seReg (x y : Nibble)
  /-- `6xnn` load immediate (R121) -/
  | ldImm (x : Nibble) (nn : Byte)
  /-- `7xnn` add immediate (R122) -/
  | addImm (x : Nibble) (nn : Byte)
  /-- `8xy0` copy register (R131) -/
  | ldReg (x y : Nibble)
  /-- `8xy1` bitwise or (R132) -/
  | or (x y : Nibble)
  /-- `8xy2` bitwise and (R133) -/
  | and (x y : Nibble)
  /-- `8xy3` bitwise exclusive or (R134) -/
  | xor (x y : Nibble)
  /-- `8xy4` add with carry flag (R135) -/
  | addReg (x y : Nibble)
  /-- `8xy5` subtract with not-borrow flag (R136) -/
  | sub (x y : Nibble)
  /-- `8xy6` shift right by one; `y` is decoded and ignored (R137, R69) -/
  | shr (x y : Nibble)
  /-- `8xyE` shift left by one; `y` is decoded and ignored (R138, R69) -/
  | shl (x y : Nibble)
  /-- `9xy0` skip if registers differ (R114) -/
  | sneReg (x y : Nibble)
  /-- `Annn` load address register (R123) -/
  | ldI (nnn : Addr)
  /-- `Bnnn` jump with offset `V0` (R104) -/
  | jpV0 (nnn : Addr)
  /-- `Cxnn` random byte (R124) -/
  | rnd (x : Nibble) (nn : Byte)
  /-- `Dxyn` draw sprite (R152) -/
  | drw (x y n : Nibble)
  /-- `Ex9E` skip if key pressed (R170) -/
  | skp (x : Nibble)
  /-- `ExA1` skip if key not pressed (R171) -/
  | sknp (x : Nibble)
  /-- `Fx07` read the delay timer (R185) -/
  | ldVxDt (x : Nibble)
  /-- `Fx0A` wait for a key press (R172) -/
  | ldVxK (x : Nibble)
  /-- `Fx15` set the delay timer (R186) -/
  | ldDtVx (x : Nibble)
  /-- `Fx18` set the sound timer (R187) -/
  | ldStVx (x : Nibble)
  /-- `Fx1E` add register to `I` (R196) -/
  | addI (x : Nibble)
  /-- `Fx29` point `I` at a font glyph (R197) -/
  | ldF (x : Nibble)
  /-- `Fx33` store the decimal digits of a register (R198) -/
  | bcd (x : Nibble)
  /-- `Fx55` store registers `V0` to `Vx` (R199) -/
  | stor (x : Nibble)
  /-- `Fx65` load registers `V0` to `Vx` (R200) -/
  | load (x : Nibble)
  deriving DecidableEq, Repr

end Sys2Proof
end

