-- ==== Sys2Proof/Decode.lean ====
section
/-! DEFINITION. The decoder of R60 to R69 (total on any bytes, rejecting by name), the encoder written from the same
formats (R61) and opcode map (R73), and the opcode map itself as data. -/

namespace Sys2Proof

/-! ### Fields of a word (R61) -/

/-- `word[15:12]`, the primary class. -/
def fieldClass (w : Word) : Nibble := w.extractLsb' 12 4
/-- `x = (word >> 8) & 0xF`. -/
def fieldX (w : Word) : Nibble := w.extractLsb' 8 4
/-- `y = (word >> 4) & 0xF`. -/
def fieldY (w : Word) : Nibble := w.extractLsb' 4 4
/-- `n = word & 0xF`. -/
def fieldN (w : Word) : Nibble := w.extractLsb' 0 4
/-- `nn = word & 0xFF`. -/
def fieldNN (w : Word) : Byte := w.extractLsb' 0 8
/-- `nnn = word & 0xFFF`. -/
def fieldNNN (w : Word) : Addr := w.extractLsb' 0 12

/-! ### Bytes and words (R44) -/

/-- The instruction word of two bytes: the byte at the lower address is the more significant half.
PRESUMED by the spec itself (R44, D1; log 7), unsafe. -/
def wordOfBytes (hi lo : Byte) : Word := hi ++ lo

/-- The two bytes of a word as memory holds them, the lower address first (R44; log 7). -/
def bytesOfWord (w : Word) : List Byte := [w.extractLsb' 8 8, w.extractLsb' 0 8]

/-! ### The decoder -/

/-- Class 0x0: two fixed words, every other word is the machine-call (R64). -/
def decodeClass0 (w : Word) : Instr :=
  if w = 0x00E0#16 then .cls
  else if w = 0x00EE#16 then .ret
  else .sys (fieldNNN w)

/-- Class 0x8 dispatches on `n` (R67). There is no `8xy7` (R140). -/
def decodeClass8 (w : Word) : Option Instr :=
  match (fieldN w).toNat with
  | 0x0 => some (.ldReg (fieldX w) (fieldY w))
  | 0x1 => some (.or (fieldX w) (fieldY w))
  | 0x2 => some (.and (fieldX w) (fieldY w))
  | 0x3 => some (.xor (fieldX w) (fieldY w))
  | 0x4 => some (.addReg (fieldX w) (fieldY w))
  | 0x5 => some (.sub (fieldX w) (fieldY w))
  | 0x6 => some (.shr (fieldX w) (fieldY w))
  | 0xE => some (.shl (fieldX w) (fieldY w))
  | _ => none

/-- Class 0xE dispatches on `nn` (R67). -/
def decodeClassE (w : Word) : Option Instr :=
  match (fieldNN w).toNat with
  | 0x9E => some (.skp (fieldX w))
  | 0xA1 => some (.sknp (fieldX w))
  | _ => none

/-- Class 0xF dispatches on `nn` (R67). -/
def decodeClassF (w : Word) : Option Instr :=
  match (fieldNN w).toNat with
  | 0x07 => some (.ldVxDt (fieldX w))
  | 0x0A => some (.ldVxK (fieldX w))
  | 0x15 => some (.ldDtVx (fieldX w))
  | 0x18 => some (.ldStVx (fieldX w))
  | 0x1E => some (.addI (fieldX w))
  | 0x29 => some (.ldF (fieldX w))
  | 0x33 => some (.bcd (fieldX w))
  | 0x55 => some (.stor (fieldX w))
  | 0x65 => some (.load (fieldX w))
  | _ => none

/-- The decoder on one word: total over the sixteen classes; `none` is UnknownOpcode (R63 to R68). In classes 5 and 9 the
low nibble must be 0 (R66, D5, C2; log 11). -/
def decodeWord (w : Word) : Option Instr :=
  match (fieldClass w).toNat with
  | 0x0 => some (decodeClass0 w)
  | 0x1 => some (.jp (fieldNNN w))
  | 0x2 => some (.call (fieldNNN w))
  | 0x3 => some (.seImm (fieldX w) (fieldNN w))
  | 0x4 => some (.sneImm (fieldX w) (fieldNN w))
  | 0x5 => if fieldN w = 0 then some (.seReg (fieldX w) (fieldY w)) else none
  | 0x6 => some (.ldImm (fieldX w) (fieldNN w))
  | 0x7 => some (.addImm (fieldX w) (fieldNN w))
  | 0x8 => decodeClass8 w
  | 0x9 => if fieldN w = 0 then some (.sneReg (fieldX w) (fieldY w)) else none
  | 0xA => some (.ldI (fieldNNN w))
  | 0xB => some (.jpV0 (fieldNNN w))
  | 0xC => some (.rnd (fieldX w) (fieldNN w))
  | 0xD => some (.drw (fieldX w) (fieldY w) (fieldN w))
  | 0xE => decodeClassE w
  | _ => decodeClassF w

/-- Why bytes are no instruction. -/
inductive Reject where
  /-- the word matches no row of the opcode map: the spec's UnknownOpcode (R68) -/
  | unknownOpcode (w : Word)
  /-- fewer than two bytes were given: an instruction is two bytes (R60) -/
  | truncated
  deriving DecidableEq, Repr

/-- What the decoder answers on a list of bytes. -/
inductive Decoded where
  /-- an instruction, and the bytes after it -/
  | instr (i : Instr) (rest : List Byte)
  | rejected (why : Reject)
  deriving DecidableEq, Repr

/-- The decoder on bytes in memory order, lowest address first (R44, R60, R63). -/
def decode (bytes : List Byte) : Decoded :=
  match bytes with
  | hi :: lo :: rest =>
    match decodeWord (wordOfBytes hi lo) with
    | some i => .instr i rest
    | none => .rejected (.unknownOpcode (wordOfBytes hi lo))
  | _ => .rejected .truncated

/-! ### The encoder -/

/-- Format NNN (R61). -/
def layoutNNN (cls : Nibble) (nnn : Addr) : Word := cls ++ nnn
/-- Formats XNN and XK (R61). -/
def layoutXNN (cls x : Nibble) (nn : Byte) : Word := cls ++ x ++ nn
/-- Formats XY and XYN (R61). -/
def layoutXYN (cls x y n : Nibble) : Word := cls ++ x ++ y ++ n

/-- The word of an instruction, from the formats of R61 and the rows of R73. -/
def encodeWord (i : Instr) : Word :=
  match i with
  | .cls => 0x00E0#16
  | .ret => 0x00EE#16
  | .sys nnn => layoutNNN 0x0 nnn
  | .jp nnn => layoutNNN 0x1 nnn
  | .call nnn => layoutNNN 0x2 nnn
  | .seImm x nn => layoutXNN 0x3 x nn
  | .sneImm x nn => layoutXNN 0x4 x nn
  | .seReg x y => layoutXYN 0x5 x y 0x0
  | .ldImm x nn => layoutXNN 0x6 x nn
  | .addImm x nn => layoutXNN 0x7 x nn
  | .ldReg x y => layoutXYN 0x8 x y 0x0
  | .or x y => layoutXYN 0x8 x y 0x1
  | .and x y => layoutXYN 0x8 x y 0x2
  | .xor x y => layoutXYN 0x8 x y 0x3
  | .addReg x y => layoutXYN 0x8 x y 0x4
  | .sub x y => layoutXYN 0x8 x y 0x5
  | .shr x y => layoutXYN 0x8 x y 0x6
  | .shl x y => layoutXYN 0x8 x y 0xE
  | .sneReg x y => layoutXYN 0x9 x y 0x0
  | .ldI nnn => layoutNNN 0xA nnn
  | .jpV0 nnn => layoutNNN 0xB nnn
  | .rnd x nn => layoutXNN 0xC x nn
  | .drw x y n => layoutXYN 0xD x y n
  | .skp x => layoutXNN 0xE x 0x9E
  | .sknp x => layoutXNN 0xE x 0xA1
  | .ldVxDt x => layoutXNN 0xF x 0x07
  | .ldVxK x => layoutXNN 0xF x 0x0A
  | .ldDtVx x => layoutXNN 0xF x 0x15
  | .ldStVx x => layoutXNN 0xF x 0x18
  | .addI x => layoutXNN 0xF x 0x1E
  | .ldF x => layoutXNN 0xF x 0x29
  | .bcd x => layoutXNN 0xF x 0x33
  | .stor x => layoutXNN 0xF x 0x55
  | .load x => layoutXNN 0xF x 0x65

/-- The bytes of a well-formed instruction as memory holds them (R44, R60). -/
def encode (i : Instr) : List Byte := bytesOfWord (encodeWord i)

/-! ### The opcode map as data (R73) -/

/-- A row of R73: a word is the instruction when `word & mask == pattern`, the two FIXED words taking priority over SYS. -/
structure OpcodeRow where
  mask : Word
  pattern : Word
  deriving DecidableEq, Repr

/-- The mask and match columns of R73 for an instruction's row. -/
def opcodeRow (i : Instr) : OpcodeRow :=
  match i with
  | .cls => ⟨0xFFFF, 0x00E0⟩
  | .ret => ⟨0xFFFF, 0x00EE⟩
  | .sys _ => ⟨0xF000, 0x0000⟩
  | .jp _ => ⟨0xF000, 0x1000⟩
  | .call _ => ⟨0xF000, 0x2000⟩
  | .seImm _ _ => ⟨0xF000, 0x3000⟩
  | .sneImm _ _ => ⟨0xF000, 0x4000⟩
  | .seReg _ _ => ⟨0xF00F, 0x5000⟩
  | .ldImm _ _ => ⟨0xF000, 0x6000⟩
  | .addImm _ _ => ⟨0xF000, 0x7000⟩
  | .ldReg _ _ => ⟨0xF00F, 0x8000⟩
  | .or _ _ => ⟨0xF00F, 0x8001⟩
  | .and _ _ => ⟨0xF00F, 0x8002⟩
  | .xor _ _ => ⟨0xF00F, 0x8003⟩
  | .addReg _ _ => ⟨0xF00F, 0x8004⟩
  | .sub _ _ => ⟨0xF00F, 0x8005⟩
  | .shr _ _ => ⟨0xF00F, 0x8006⟩
  | .shl _ _ => ⟨0xF00F, 0x800E⟩
  | .sneReg _ _ => ⟨0xF00F, 0x9000⟩
  | .ldI _ => ⟨0xF000, 0xA000⟩
  | .jpV0 _ => ⟨0xF000, 0xB000⟩
  | .rnd _ _ => ⟨0xF000, 0xC000⟩
  | .drw _ _ _ => ⟨0xF000, 0xD000⟩
  | .skp _ => ⟨0xF0FF, 0xE09E⟩
  | .sknp _ => ⟨0xF0FF, 0xE0A1⟩
  | .ldVxDt _ => ⟨0xF0FF, 0xF007⟩
  | .ldVxK _ => ⟨0xF0FF, 0xF00A⟩
  | .ldDtVx _ => ⟨0xF0FF, 0xF015⟩
  | .ldStVx _ => ⟨0xF0FF, 0xF018⟩
  | .addI _ => ⟨0xF0FF, 0xF01E⟩
  | .ldF _ => ⟨0xF0FF, 0xF029⟩
  | .bcd _ => ⟨0xF0FF, 0xF033⟩
  | .stor _ => ⟨0xF0FF, 0xF055⟩
  | .load _ => ⟨0xF0FF, 0xF065⟩

/-! ### The table's numbering of an instruction's bits -/

/-- The bytes of an instruction whose bits are `w` as spec/opcode_table.json numbers them: bit 0 is the least significant
bit of the one instruction word; bits from `nbits` on are 0. -/
def tableBytes (nbits w : Nat) : List Byte := bytesOfWord (BitVec.ofNat 16 (w % 2 ^ nbits))

/-- The instruction the decoder reads from the bits `w` of a table row of `nbits` bits. -/
def decodeTableWord (nbits w : Nat) : Option Instr :=
  match decode (tableBytes nbits w) with
  | .instr i _ => some i
  | .rejected _ => none

end Sys2Proof
end

