-- ==== Sys2Proof/Config.lean ====
section
/-! DEFINITION. The three points the spec leaves open as parameters of the model (R5): constants without a body, so that
no proof can see their value and a claim about the machine holds whatever they are. -/

namespace Sys2Proof

/-- What a sprite pixel does at the grid edge: the three values `EDGE_POLICY` may take (R5, R153). -/
inductive EdgePolicy where
  /-- every pixel coordinate is reduced modulo the grid size -/
  | wrap
  /-- no reduction; a pixel beyond the grid is dropped -/
  | clip
  /-- the origin is reduced modulo the grid size, then pixels beyond the edge are dropped -/
  | wrapOriginClip
  deriving DecidableEq, Repr, Inhabited

/-- `EDGE_POLICY` (R5, R153, D7): one of the three policies, the same for the whole life of a machine. Open: no body.
DESIGN CHOICE (log 2), safe. -/
opaque Config.edgePolicy : EdgePolicy

/-- `FONT` (R5, R251, D16): the 80 glyph bytes placed at 0x050 to 0x09F by RESET. Open: no body.
DESIGN CHOICE (log 3), safe. -/
opaque Config.font : Vector Byte 80

/-- The free value `rnd` (R5, R89, R124, D13): the random byte of the k-th `Cxnn`, under no law. Open: no body.
DESIGN CHOICE (log 1), safe. -/
opaque Config.rnd : Nat → Byte

end Sys2Proof
end

