-- ==== Sys2Proof/Machine/State.lean ====
section
/-! DEFINITION. The state of one core instance (R10), the interface operations that act on it (R81), the reasons a step can
stop, and the state right after RESET (R27). Plain data throughout. -/

namespace Sys2Proof.Machine

/-- Memory as the bytes that differ from what an unlisted address reads as, addresses rising (R21, R40). -/
abbrev Memory := List Host.Cell

/-- The display, `fb[y][x]`: 32 rows of 64 one-bit pixels (R19). -/
abbrev Framebuffer := Vector (Vector Bool 64) 32

/-- The six error kinds (R28, R210). -/
inductive ErrorKind where
  | unknownOpcode
  | unsupportedOpcode
  | stackOverflow
  | stackUnderflow
  | memoryOutOfRange
  | loadTooLarge
  deriving DecidableEq, Repr

/-- What a STEP returns (R28, R87). -/
inductive StepOutcome where
  | advanced
  | waiting
  | error (kind : ErrorKind)
  deriving DecidableEq, Repr

/-- What a host operation other than STEP returns (R81). -/
inductive Reply where
  /-- LOAD: ok -/
  | loadOk
  /-- LOAD: `Error(LoadTooLarge)` -/
  | loadError (kind : ErrorKind)
  /-- PIXEL_QUERY: the pixel -/
  | pixel (on : Bool)
  /-- DIRTY_CONSUME: the flag before it was cleared -/
  | dirty (was : Bool)
  /-- TIMER_OBSERVE: `DT` and `ST` -/
  | timers (dt st : Byte)
  deriving DecidableEq, Repr

/-- The interface operations of R81, the whole boundary of the core. Argument types admit exactly the ranges the spec
defines (R158, R173, U12). -/
inductive Operation where
  /-- RESET (R250) -/
  | reset
  /-- LOAD (R253) -/
  | load (prog : List Byte)
  /-- STEP (R82 to R87) -/
  | step
  /-- TICK (R230) -/
  | tick
  /-- KEY_WRITE (R173) -/
  | keyWrite (k : Nibble) (v : Bool)
  /-- PIXEL_QUERY (R158) -/
  | pixelQuery (x : Fin 64) (y : Fin 32)
  /-- DIRTY_CONSUME (R159) -/
  | dirtyConsume
  /-- TIMER_OBSERVE (R232) -/
  | timerObserve
  deriving DecidableEq, Repr

/-- The complete state of one core instance (R10), followed by the model's own fields. -/
structure State where
  /-- `mem[0..4095]` (R21) -/
  mem : Memory
  /-- `V[0..15]` (R11, R12) -/
  V : Vector Byte 16
  /-- the address register (R13) -/
  I : Word
  /-- the program counter (R14) -/
  pc : Word
  /-- the call stack's slots (R15) -/
  stack : Vector Word 16
  /-- the number of occupied slots, 0 to 16 (R15) -/
  sp : Fin 17
  /-- the delay timer (R16) -/
  DT : Byte
  /-- the sound timer (R17) -/
  ST : Byte
  /-- the key slots, true is pressed (R18) -/
  keys : Vector Bool 16
  /-- the framebuffer (R19) -/
  fb : Framebuffer
  /-- the dirty flag (R20) -/
  dirty : Bool
  /-- the wait-for-key mode (R22) -/
  waiting : Bool
  /-- `wait_x`: the `x` field of the `Fx0A` that entered the mode (R22) -/
  waitX : Nibble
  /-- `key_valid`: a key press has been observed since (R22) -/
  keyValid : Bool
  /-- `key_latch`: the first key so observed (R22) -/
  keyLatch : Nibble
  /-- a fatal error has stopped the machine (R23) -/
  halted : Bool
  /-- the fatal kind that did, none is code 0 (R23, R210) -/
  err : Option ErrorKind
  /-- MODEL'S OWN (log 31): what the latest STEP since RESET returned -/
  outcome : Option StepOutcome
  /-- MODEL'S OWN (log 31): what the latest host operation returned -/
  reply : Option Reply
  /-- MODEL'S OWN (log 22): LOAD has been performed since RESET -/
  loaded : Bool
  /-- MODEL'S OWN (log 1): how many random bytes have been drawn -/
  draws : Nat
  /-- MODEL'S OWN (log 26): the interface operations to be performed, next one first; when it is empty a step is a STEP -/
  agenda : List Operation
  deriving DecidableEq, Repr

/-- Reasons the machine stops with a fault: none. Every error the spec names has an entry the spec describes (R211 to R217),
and the model takes it as a next state (log 32). Safe and complete: no behaviour is cut short by a fault. -/
inductive Fault where
  deriving DecidableEq, Repr

/-- Reasons a step is refused. -/
inductive Refusal where
  /-- Raised by exec's arm of an instruction that has no meaning yet (no arm does). Safe: the run stops. -/
  | notModelled (mnemonic : String)
  /-- Raised by a LOAD that is not the first since RESET or comes after a STEP: the spec places it outside itself and has
  a model refuse it (R53, R253, U11; log 22). Safe: the run stops. -/
  | loadOutsideBoot
  deriving DecidableEq, Repr

/-- What one step answers. -/
abbrev Result := Host.Outcome State Fault Refusal

/-- The machine right after RESET (R27). Memory lists nothing: the font and the zero fill are what an unlisted address reads
as (R251, R252). `pc`, `sp`, `DT`, `ST` and `fb` are stated by the source; the other values are DESIGN CHOICES (log 4, 5, 6),
unsafe. -/
def State.reset : State where
  mem := []
  V := Vector.replicate 16 0
  I := 0
  pc := 0x0200
  stack := Vector.replicate 16 0
  sp := 0
  DT := 0
  ST := 0
  keys := Vector.replicate 16 false
  fb := Vector.replicate 32 (Vector.replicate 64 false)
  dirty := false
  waiting := false
  waitX := 0
  keyValid := false
  keyLatch := 0
  halted := false
  err := none
  outcome := none
  reply := none
  loaded := false
  draws := 0
  agenda := []

end Sys2Proof.Machine
end

