-- ==== Sys2Proof/Machine/Ops.lean ====
section
/-! DEFINITION. The named operations over memory, registers, the call stack and the program counter; the entry of an error,
once for all kinds (R211 to R217), and beside it RESET, the only way back from a fatal one (R218). -/

namespace Sys2Proof.Machine

/-! ### Memory (R40 to R43, R46) -/

/-- MEM_SIZE (R4): addresses are 0 to 4095. -/
def memSize : Nat := 4096

/-- The 80 font bytes this machine has: the open parameter `FONT` (R251; log 3). -/
def fontBytes : Vector Byte 80 := Config.font

/-- What an unlisted address reads as: the font at 0x050 to 0x09F (R251), else 0x00 (R252, D15; DESIGN CHOICE, log 6, unsafe). -/
def Memory.unlisted (a : Nat) : Byte :=
  if h : 0x50 ≤ a ∧ a < 0xA0 then fontBytes[a - 0x50] else 0

/-- The canonical form: addresses strictly rising and inside memory, and no entry equal to what its address reads as
unlisted. -/
abbrev Memory.wf (m : Memory) : Prop :=
  (m.map Prod.fst).Pairwise (· < ·) ∧ ∀ c ∈ m, c.1 < memSize ∧ c.2 ≠ Memory.unlisted c.1

/-- One byte of memory. -/
def Memory.read (m : Memory) (a : Nat) : Byte :=
  match m with
  | [] => Memory.unlisted a
  | c :: rest => if c.1 = a then c.2 else Memory.read rest a

/-- Puts the cell of `a` in front of cells with greater addresses, unless it is what `a` reads as unlisted. -/
def Memory.consCell (a : Nat) (b : Byte) (rest : Memory) : Memory :=
  if b = Memory.unlisted a then rest else (a, b) :: rest

/-- Memory with the byte at `a` replaced; the canonical form is kept. -/
def Memory.write (m : Memory) (a : Nat) (b : Byte) : Memory :=
  match m with
  | [] => Memory.consCell a b []
  | c :: rest =>
    if a < c.1 then Memory.consCell a b (c :: rest)
    else if a = c.1 then Memory.consCell a b rest
    else c :: Memory.write rest a b

/-- The bytes `bs` written at `a`, `a + 1`, ..., lowest address first (R7 `MemWrite`). -/
def Memory.writeBytes (m : Memory) (a : Nat) (bs : List Byte) : Memory :=
  match bs with
  | [] => m
  | b :: rest => Memory.writeBytes (m.write a b) (a + 1) rest

/-- The `n` bytes at `a`, lowest address first (R7 `MemRead`). -/
def Memory.readBytes (m : Memory) (a n : Nat) : List Byte :=
  (List.range n).map fun k => m.read (a + k)

/-- The range of `n` bytes at `a` lies inside memory; an empty range accesses nothing and is always allowed (R41). -/
def inRange (a n : Nat) : Bool := n == 0 || decide (a + n ≤ memSize)

/-- Reads a whole range after checking it; `none` is MemoryOutOfRange (R41, D18; log 18). -/
def State.loadBytes (a n : Nat) (s : State) : Option (List Byte) :=
  if inRange a n then some (s.mem.readBytes a n) else none

/-- Writes a whole range after checking it; `none` is MemoryOutOfRange, nothing written (R41, D18; log 18). -/
def State.storeBytes (a : Nat) (bs : List Byte) (s : State) : Option State :=
  if inRange a bs.length then some { s with mem := s.mem.writeBytes a bs } else none

/-- The two bytes of the instruction at `pc`; `none` when `pc > 0x0FFE` (R84, D3; log 9). An odd `pc` is no error (R45; log 8). -/
def State.fetch (s : State) : Option (List Byte) := s.loadBytes s.pc.toNat 2

/-! ### General registers (R11) -/

/-- `V[x]`. -/
def State.reg (s : State) (x : Nibble) : Byte := s.V[x.toNat]'x.isLt

/-- `V[x] <- b`. -/
def State.setReg (x : Nibble) (b : Byte) (s : State) : State :=
  { s with V := s.V.set x.toNat b x.isLt }

/-! ### How an instruction ends (R14, R86, R87, R110) -/

/-- `pc <- target`, outcome `Advanced`. -/
def State.jump (target : Word) (s : State) : State :=
  { s with pc := target, outcome := some .advanced }

/-- The default advance: `pc <- pc + 2`, outcome `Advanced` (R86). On 16 bits (log 36). -/
def State.advance (s : State) : State := s.jump (s.pc + 2)

/-- A conditional skip: `pc <- pc + 4` if the condition holds, else `pc + 2` (R110). -/
def State.skipIf (c : Bool) (s : State) : State :=
  s.jump (if c then s.pc + 4 else s.pc + 2)

/-! ### The call stack (R15) -/

/-- Push; `none` when all 16 slots are occupied. -/
def State.push (w : Word) (s : State) : Option State :=
  if h : s.sp.val < 16 then
    some { s with stack := s.stack.set s.sp.val w, sp := ⟨s.sp.val + 1, by omega⟩ }
  else none

/-- Pop: the newest entry and the state without it; `none` when empty. The slot keeps its old bits (R100; log 28). -/
def State.pop (s : State) : Option (Word × State) :=
  if h : 0 < s.sp.val then
    some (s.stack[s.sp.val - 1], { s with sp := ⟨s.sp.val - 1, by omega⟩ })
  else none

/-! ### Errors (R210 to R219) and the way back -/

/-- The fatal kinds (R210). -/
def ErrorKind.isFatal (k : ErrorKind) : Bool :=
  match k with
  | .unknownOpcode => false
  | .unsupportedOpcode => false
  | .stackOverflow => true
  | .stackUnderflow => true
  | .memoryOutOfRange => true
  | .loadTooLarge => true

/-- The numeric code of a kind (R210, D20; log 20). -/
def ErrorKind.code (k : ErrorKind) : BitVec 3 :=
  match k with
  | .unknownOpcode => 1
  | .unsupportedOpcode => 2
  | .stackOverflow => 3
  | .stackUnderflow => 4
  | .memoryOutOfRange => 5
  | .loadTooLarge => 6

/-- `err` as the 3-bit code R10 and R23 give it; 0 is no error (R210). -/
def State.errCode (s : State) : BitVec 3 :=
  match s.err with
  | none => 0
  | some k => k.code

/-- Enter Halted mode with a fatal kind: `halted <- 1`, `err <- K`, nothing else (R216, R253). -/
def State.halt (k : ErrorKind) (s : State) : State :=
  { s with halted := true, err := some k }

/-- A STEP raises an error. Fatal (R216): halt, `pc` still at the failing instruction. Non-fatal (R211, R212, R217):
`pc <- pc + 2` and nothing else. The outcome is `Error(K)` either way. -/
def State.raise (k : ErrorKind) (s : State) : State :=
  if k.isFatal then { s.halt k with outcome := some (.error k) }
  else { s with pc := s.pc + 2, outcome := some (.error k) }

/-- RESET (R250, R218): every element of the core to its reset value, whatever the mode. What is not the core's, the random
source and the operations still to come, goes on (log 35). -/
def State.afterReset (s : State) : State :=
  { State.reset with draws := s.draws, agenda := s.agenda }

end Sys2Proof.Machine
end

