-- ==== Sys2Proof/Machine/Operands.lean ====
section
/-! DEFINITION. The operand forms of R62 and R195 and the values formed from them: zero extension, the key index, the glyph
address, the decimal digits, the register block `V0..Vx`. -/

namespace Sys2Proof.Machine

/-- `zext_16` of an address field (R62). -/
def zextAddr (nnn : Addr) : Word := nnn.setWidth 16

/-- `zext_16` of an 8-bit value (R104, R196, R197). -/
def zextByte (b : Byte) : Word := b.setWidth 16

/-- `zext_8` of a key index (R83). -/
def zextKey (k : Nibble) : Byte := k.setWidth 8

/-- The key a register value selects: its low 4 bits (R170, D11; log 16). -/
def keyIndex (b : Byte) : Nibble := b.setWidth 4

/-- `keys[k]` (R18). -/
def State.key (s : State) (k : Nibble) : Bool := s.keys[k.toNat]'k.isLt

/-- The base address of memory operands: `I + k` is formed in the naturals, without wrap (R41, R195). -/
def State.base (s : State) : Nat := s.I.toNat

/-- `0x0050 + 5 * zext_16(V[x])`, no masking of the digit (R197, D10; log 15). -/
def glyphAddr (digit : Byte) : Word := 0x0050 + 5 * zextByte digit

/-- `nnn + V[0]` in 16 bits, no reduction modulo 4096 (R104, D28; log 27). -/
def offsetTarget (nnn : Addr) (v0 : Byte) : Word := zextAddr nnn + zextByte v0

/-- Hundreds, tens and ones of a register value (R198). -/
def bcdDigits (v : Byte) : List Byte :=
  [BitVec.ofNat 8 (v.toNat / 100), BitVec.ofNat 8 (v.toNat / 10 % 10), BitVec.ofNat 8 (v.toNat % 10)]

/-- `V[0], ..., V[x]` (R199). -/
def State.block (s : State) (x : Nibble) : List Byte := s.V.toList.take (x.toNat + 1)

/-- The number of registers in the block `V0..Vx`: x is included (R199, R200). -/
def blockLength (x : Nibble) : Nat := x.toNat + 1

/-- `V[k] <- bs[k]` for every k the list reaches; the other registers keep their value (R200). -/
def State.setBlock (bs : List Byte) (s : State) : State :=
  { s with V := Vector.ofFn fun k : Fin 16 => bs.getD k.val s.V[k.val] }

end Sys2Proof.Machine
end

