-- ==== Sys2Proof/Machine/Flags.lean ====
section
/-! DEFINITION. The results and flag values of the arithmetic of R139, and the one order in which a result and its flag are
written (R130, C3, D6; log 12). Exact arithmetic on naturals, narrowed at the end. -/

namespace Sys2Proof.Machine

/-- The flag register `VF` (R12). -/
def VF : Nibble := 0xF

/-- A flag as the byte written to `VF`: 0x00 or 0x01 (R12). -/
def flagByte (f : Bool) : Byte := if f then 1 else 0

/-- `(a + b) mod 256` (R139). -/
def addResult (a b : Byte) : Byte := BitVec.ofNat 8 (a.toNat + b.toNat)

/-- Carry: the unreduced sum exceeds 255 (R135). -/
def addCarry (a b : Byte) : Bool := decide (255 < a.toNat + b.toNat)

/-- `(a - b) mod 256` (R136). -/
def subResult (a b : Byte) : Byte := BitVec.ofNat 8 (a.toNat + 256 - b.toNat)

/-- Not borrow: `a >= b`, unsigned (R136). -/
def subNotBorrow (a b : Byte) : Bool := decide (b.toNat ≤ a.toNat)

/-- `a / 2` (R137). -/
def shrResult (a : Byte) : Byte := BitVec.ofNat 8 (a.toNat / 2)

/-- Bit 0 before the shift (R137). -/
def shrOut (a : Byte) : Bool := a.getLsbD 0

/-- `(a * 2) mod 256` (R138). -/
def shlResult (a : Byte) : Byte := BitVec.ofNat 8 (a.toNat * 2)

/-- Bit 7 before the shift (R138). -/
def shlOut (a : Byte) : Bool := a.getLsbD 7

/-- `V[x] <- result`, then `VF <- flag`: with x = 0xF the flag is what `VF` holds afterwards (R130). -/
def State.setRegAndFlag (x : Nibble) (result : Byte) (flag : Bool) (s : State) : State :=
  (s.setReg x result).setReg VF (flagByte flag)

end Sys2Proof.Machine
end

