-- ==== Sys2Proof/Machine/Alu.lean ====
section
/-! DEFINITION. Register-to-register ALU (spec/44_alu.md): LD_REG, OR, AND, XOR, ADD_REG, SUB, SHR, SHL. Operands are read
before anything is written (R130). -/

namespace Sys2Proof.Machine

/-- `8xy0` LD_REG (R131). -/
def execLdReg (x y : Nibble) (s : State) : Result := .next (s.setReg x (s.reg y)).advance

/-- `8xy1` OR (R132): `VF` is not written. -/
def execOr (x y : Nibble) (s : State) : Result := .next (s.setReg x (s.reg x ||| s.reg y)).advance

/-- `8xy2` AND (R133): `VF` is not written. -/
def execAnd (x y : Nibble) (s : State) : Result := .next (s.setReg x (s.reg x &&& s.reg y)).advance

/-- `8xy3` XOR (R134): `VF` is not written. -/
def execXor (x y : Nibble) (s : State) : Result := .next (s.setReg x (s.reg x ^^^ s.reg y)).advance

/-- `8xy4` ADD_REG (R135). -/
def execAddReg (x y : Nibble) (s : State) : Result :=
  .next (s.setRegAndFlag x (addResult (s.reg x) (s.reg y)) (addCarry (s.reg x) (s.reg y))).advance

/-- `8xy5` SUB (R136). -/
def execSub (x y : Nibble) (s : State) : Result :=
  .next (s.setRegAndFlag x (subResult (s.reg x) (s.reg y)) (subNotBorrow (s.reg x) (s.reg y))).advance

/-- `8xy6` SHR (R137): shifts `V[x]`; `y` is ignored (D25; log 25). -/
def execShr (x _y : Nibble) (s : State) : Result :=
  .next (s.setRegAndFlag x (shrResult (s.reg x)) (shrOut (s.reg x))).advance

/-- `8xyE` SHL (R138): shifts `V[x]`; `y` is ignored (D25; log 25). -/
def execShl (x _y : Nibble) (s : State) : Result :=
  .next (s.setRegAndFlag x (shlResult (s.reg x)) (shlOut (s.reg x))).advance

end Sys2Proof.Machine
end

