-- ==== Sys2Proof/Machine/Display.lean ====
section
/-! DEFINITION. The display and the sprite compositor (spec/45_display.md): CLS, DRW. -/

namespace Sys2Proof.Machine

/-- `fb[y][x]` (R19). -/
def Framebuffer.pixel (fb : Framebuffer) (x : Fin 64) (y : Fin 32) : Bool := fb[y.val][x.val]

/-- `fb[y][x] <- fb[y][x] ^ 1`. -/
def Framebuffer.flip (fb : Framebuffer) (x : Fin 64) (y : Fin 32) : Framebuffer :=
  fb.set y.val (fb[y.val].set x.val (!(fb.pixel x y)))

/-- All pixels 0 (R150). -/
def Framebuffer.clear : Framebuffer := Vector.replicate 32 (Vector.replicate 64 false)

/-- The edge policy this machine has: the open parameter `EDGE_POLICY` (R153; log 2). -/
def edgePolicy : EdgePolicy := Config.edgePolicy

/-- A column and a row as a pixel of the grid, if they are on it (R153's `ok`). -/
def onGrid (px py : Nat) : Option (Fin 64 × Fin 32) :=
  if h : px < 64 ∧ py < 32 then some (⟨px, h.1⟩, ⟨py, h.2⟩) else none

/-- `Place(ox, oy, col, row)`: where a sprite pixel lands (R153). Row `row` of the sprite lies `row` rows from the origin in
the direction of increasing y (R151, D30; log 29). -/
def place (policy : EdgePolicy) (ox oy : Byte) (col row : Nat) : Option (Fin 64 × Fin 32) :=
  match policy with
  | .wrap => onGrid ((ox.toNat + col) % 64) ((oy.toNat + row) % 32)
  | .clip => onGrid (ox.toNat + col) (oy.toNat + row)
  | .wrapOriginClip => onGrid (ox.toNat % 64 + col) (oy.toNat % 32 + row)

/-- Sprite pixel at column offset `col` of a sprite byte: bit `7 - col`, most significant bit first (R151). -/
def spriteBit (b : Byte) (col : Nat) : Bool := b.getLsbD (7 - col)

/-- What a draw has done so far: the pixels, whether one went from 1 to 0, whether one changed (R152). -/
structure Canvas where
  fb : Framebuffer
  collision : Bool
  changed : Bool
  deriving DecidableEq, Repr

/-- XOR one pixel of the grid (R152). -/
def Canvas.plot (p : Fin 64 × Fin 32) (c : Canvas) : Canvas :=
  { fb := c.fb.flip p.1 p.2, collision := c.collision || c.fb.pixel p.1 p.2, changed := true }

/-- One sprite pixel: nothing if it is 0 or lands nowhere (R151 to R153). -/
def Canvas.drawPixel (policy : EdgePolicy) (ox oy : Byte) (row : Nat) (b : Byte) (c : Canvas) (col : Nat) : Canvas :=
  if spriteBit b col then
    match place policy ox oy col row with
    | none => c
    | some p => c.plot p
  else c

/-- The eight pixels of a sprite byte, columns 0 to 7 (R152). -/
def Canvas.drawRow (policy : EdgePolicy) (ox oy : Byte) (row : Nat) (b : Byte) (c : Canvas) : Canvas :=
  (List.range 8).foldl (Canvas.drawPixel policy ox oy row b) c

/-- The sprite's bytes, the first of them drawn on row `row` (R152). -/
def Canvas.drawSprite (policy : EdgePolicy) (ox oy : Byte) (row : Nat) (bytes : List Byte) (c : Canvas) : Canvas :=
  match bytes with
  | [] => c
  | b :: rest => Canvas.drawSprite policy ox oy (row + 1) rest (c.drawRow policy ox oy row b)

/-- The canvas a DRW starts from: nothing collided or changed. -/
def State.canvas (s : State) : Canvas := { fb := s.fb, collision := false, changed := false }

/-- The framebuffer of a canvas; `dirty` is set when a pixel changed and never cleared here (R152, R20). -/
def State.setCanvas (c : Canvas) (s : State) : State :=
  { s with fb := c.fb, dirty := s.dirty || c.changed }

/-- `00E0` CLS (R150): all pixels 0, `dirty` set always (C10). -/
def execCls (s : State) : Result :=
  .next { s with fb := Framebuffer.clear, dirty := true }.advance

/-- DRW under a given edge policy: the sprite's range is checked first (R41), the origin is read before any write, `VF`
reports a 1-to-0 flip and is written last (R152, C1). n = 0 draws nothing and reads nothing (R155; log 13). -/
def drawUnder (policy : EdgePolicy) (x y n : Nibble) (s : State) : State :=
  match s.loadBytes s.base n.toNat with
  | none => s.raise .memoryOutOfRange
  | some bytes =>
    let c := s.canvas.drawSprite policy (s.reg x) (s.reg y) 0 bytes
    ((s.setCanvas c).setReg VF (flagByte c.collision)).advance

/-- `Dxyn` DRW (R152) under the machine's `EDGE_POLICY`. -/
def execDrw (x y n : Nibble) (s : State) : Result := .next (drawUnder edgePolicy x y n s)

end Sys2Proof.Machine
end

