-- ==== Sys2Proof/Machine/Flow.lean ====
section
/-! DEFINITION. Control transfer (spec/41_flow.md): RET, SYS, JP, CALL, JP_V0. No target is checked here (R106). -/

namespace Sys2Proof.Machine

/-- `00EE` RET (R100): pop into `pc`; StackUnderflow when empty. -/
def execRet (s : State) : Result :=
  match s.pop with
  | none => .next (s.raise .stackUnderflow)
  | some (w, s') => .next (s'.jump w)

/-- `0nnn` SYS (R101): UnsupportedOpcode, reported and skipped; `nnn` has no effect. -/
def execSys (_nnn : Addr) (s : State) : Result := .next (s.raise .unsupportedOpcode)

/-- `1nnn` JP (R102). -/
def execJp (nnn : Addr) (s : State) : Result := .next (s.jump (zextAddr nnn))

/-- `2nnn` CALL (R103): push `pc + 2` (D4; log 10), jump; StackOverflow when 16 are outstanding. -/
def execCall (nnn : Addr) (s : State) : Result :=
  match s.push (s.pc + 2) with
  | none => .next (s.raise .stackOverflow)
  | some s' => .next (s'.jump (zextAddr nnn))

/-- `Bnnn` JP_V0 (R104): the offset is always `V0`. -/
def execJpV0 (nnn : Addr) (s : State) : Result := .next (s.jump (offsetTarget nnn (s.reg 0)))

end Sys2Proof.Machine
end

