-- ==== Sys2Proof/Machine/Immediate.lean ====
section
/-! DEFINITION. Immediates and the random byte (spec/43_const.md): LD_IMM, ADD_IMM, LD_I, RND. -/

namespace Sys2Proof.Machine

/-- `6xnn` LD_IMM (R121). -/
def execLdImm (x : Nibble) (nn : Byte) (s : State) : Result := .next (s.setReg x nn).advance

/-- `7xnn` ADD_IMM (R122): wraps modulo 256, no flag. -/
def execAddImm (x : Nibble) (nn : Byte) (s : State) : Result :=
  .next (s.setReg x (addResult (s.reg x) nn)).advance

/-- `Annn` LD_I (R123). -/
def execLdI (nnn : Addr) (s : State) : Result := .next { s with I := zextAddr nnn }.advance

/-- The random byte the next `Cxnn` uses: a free value (R89; log 1). -/
def State.random (s : State) : Byte := Config.rnd s.draws

/-- One random byte has been drawn. -/
def State.drawRandom (s : State) : State := { s with draws := s.draws + 1 }

/-- `Cxnn` RND (R124): `V[x] <- rnd & nn`. -/
def execRnd (x : Nibble) (nn : Byte) (s : State) : Result :=
  .next ((s.setReg x (s.random &&& nn)).drawRandom).advance

end Sys2Proof.Machine
end

