-- ==== Sys2Proof/Machine/Keypad.lean ====
section
/-! DEFINITION. Keypad instructions and the wait-for-key mode (spec/46_keypad.md): SKP, SKNP, LD_VX_K. -/

namespace Sys2Proof.Machine

/-- `Ex9E` SKP (R170). -/
def execSkp (x : Nibble) (s : State) : Result := .next (s.skipIf (s.key (keyIndex (s.reg x))))

/-- `ExA1` SKNP (R171). -/
def execSknp (x : Nibble) (s : State) : Result := .next (s.skipIf (!(s.key (keyIndex (s.reg x)))))

/-- Enter Waiting mode: `pc` is not written (R172, D12; log 17). -/
def State.enterWait (x : Nibble) (s : State) : State :=
  { s with waiting := true, waitX := x, keyValid := false, outcome := some .waiting }

/-- The Waiting STEP that finds a latched key: `V[wait_x] <- key_latch`, leave the mode, `pc + 2` (R83). -/
def State.completeWait (s : State) : State :=
  { s.setReg s.waitX (zextKey s.keyLatch) with waiting := false, keyValid := false }.advance

/-- `Fx0A` LD_VX_K (R172): the STEP that enters the mode. -/
def execLdVxK (x : Nibble) (s : State) : Result := .next (s.enterWait x)

end Sys2Proof.Machine
end

