-- ==== Sys2Proof/Machine/MemOps.lean ====
section
/-! DEFINITION. Address register and memory instructions (spec/48_memops.md): ADD_I, LD_F, BCD, STOR, LOAD. No memory
instruction writes `I` (R195, D24; log 24). -/

namespace Sys2Proof.Machine

/-- `Fx1E` ADD_I (R196): modulo 65536, `VF` not written (D9; log 14). -/
def execAddI (x : Nibble) (s : State) : Result :=
  .next { s with I := s.I + zextByte (s.reg x) }.advance

/-- `Fx29` LD_F (R197). -/
def execLdF (x : Nibble) (s : State) : Result := .next { s with I := glyphAddr (s.reg x) }.advance

/-- Store bytes at `I` and advance, or MemoryOutOfRange with nothing written (R41, R198, R199). -/
def storeAtI (bs : List Byte) (s : State) : State :=
  match s.storeBytes s.base bs with
  | none => s.raise .memoryOutOfRange
  | some s' => s'.advance

/-- `Fx33` BCD (R198). -/
def execBcd (x : Nibble) (s : State) : Result := .next (storeAtI (bcdDigits (s.reg x)) s)

/-- `Fx55` STOR (R199). -/
def execStor (x : Nibble) (s : State) : Result := .next (storeAtI (s.block x) s)

/-- `Fx65` LOAD (R200): MemoryOutOfRange loads nothing. -/
def execLoad (x : Nibble) (s : State) : Result :=
  match s.loadBytes s.base (blockLength x) with
  | none => .next (s.raise .memoryOutOfRange)
  | some bs => .next (s.setBlock bs).advance

end Sys2Proof.Machine
end

