-- ==== Sys2Proof/Machine/Timer.lean ====
section
/-! DEFINITION. Timer instructions (spec/47_timer.md): LD_VX_DT, LD_DT_VX, LD_ST_VX. They never count (R16). -/

namespace Sys2Proof.Machine

/-- `Fx07` LD_VX_DT (R185). -/
def execLdVxDt (x : Nibble) (s : State) : Result := .next (s.setReg x s.DT).advance

/-- `Fx15` LD_DT_VX (R186). -/
def execLdDtVx (x : Nibble) (s : State) : Result := .next { s with DT := s.reg x }.advance

/-- `Fx18` LD_ST_VX (R187). -/
def execLdStVx (x : Nibble) (s : State) : Result := .next { s with ST := s.reg x }.advance

end Sys2Proof.Machine
end

