-- ==== Sys2Proof/Machine/HostOps.lean ====
section
/-! DEFINITION. The interface operations of R81 other than STEP: TICK, KEY_WRITE, LOAD, PIXEL_QUERY, DIRTY_CONSUME,
TIMER_OBSERVE. All act in every mode (R225, D27; log 26) but LOAD, which has its place in the boot order. RESET is
`State.afterReset` in Ops.lean. -/

namespace Sys2Proof.Machine

/-- A timer one tick later: down by 1, floored at 0 (R230). -/
def tickTimer (t : Byte) : Byte := if 0 < t.toNat then t - 1 else 0

/-- TICK (R230). -/
def State.tick (s : State) : State :=
  { s with DT := tickTimer s.DT, ST := tickTimer s.ST, reply := none }

/-- A KEY_WRITE(k, v) that Waiting mode latches as the key press: the mode is on, nothing is latched yet, and the slot goes
from 0 to 1 (R173, C11; log 17). -/
def State.latches (k : Nibble) (v : Bool) (s : State) : Bool :=
  s.waiting && !s.keyValid && !(s.key k) && v

/-- KEY_WRITE(k, v) (R173). -/
def State.keyWrite (k : Nibble) (v : Bool) (s : State) : State :=
  { s with
    keys := s.keys.set k.toNat v k.isLt
    keyLatch := if s.latches k v then k else s.keyLatch
    keyValid := s.keyValid || s.latches k v
    reply := none }

/-- PROG_BASE (R4). -/
def progBase : Nat := 0x200

/-- PROG_MAX (R4): the longest program that loads. -/
def progMax : Nat := memSize - progBase

/-- LOAD is admitted: none since RESET, and no STEP since RESET (R253, D22; log 22). -/
def State.loadAdmitted (s : State) : Bool := !s.loaded && s.outcome.isNone

/-- LOAD(prog) (R253): a program that is too long halts the core and writes no byte. -/
def State.loadProgram (prog : List Byte) (s : State) : Result :=
  if s.loadAdmitted then
    if progMax < prog.length then
      .next { s.halt .loadTooLarge with loaded := true, reply := some (.loadError .loadTooLarge) }
    else
      .next { s with mem := s.mem.writeBytes progBase prog, loaded := true, reply := some .loadOk }
  else .refused .loadOutsideBoot

/-- PIXEL_QUERY(x, y) (R158). -/
def State.pixelQuery (x : Fin 64) (y : Fin 32) (s : State) : State :=
  { s with reply := some (.pixel (s.fb.pixel x y)) }

/-- DIRTY_CONSUME (R159): read and clear (D17; log 5). -/
def State.dirtyConsume (s : State) : State :=
  { s with dirty := false, reply := some (.dirty s.dirty) }

/-- TIMER_OBSERVE (R232, D31; log 30). -/
def State.timerObserve (s : State) : State :=
  { s with reply := some (.timers s.DT s.ST) }

end Sys2Proof.Machine
end

