-- ==== Sys2Proof/Machine/Cycle.lean ====
section
/-! DEFINITION. The STEP operation (R82 to R87) and the performance of one interface operation (R81). -/

namespace Sys2Proof.Machine

/-- The Running branch of a STEP: fetch, decode, dispatch (R84, R85). -/
def runInstruction (s : State) : Result :=
  match s.fetch with
  | none => .next (s.raise .memoryOutOfRange)
  | some bytes =>
    match decode bytes with
    | .instr i _ => exec i s
    | .rejected _ => .next (s.raise .unknownOpcode)

/-- STEP: halted, then waiting, then fetch, decode and the instruction (R82 to R87, R221; log 19, 21). -/
def cycle (s : State) : Result :=
  if s.halted then .next { s with outcome := s.err.map .error }
  else if s.waiting then
    if s.keyValid then .next s.completeWait
    else .next { s with outcome := some .waiting }
  else runInstruction s

/-- One interface operation, atomically (R49, R81). -/
def perform (op : Operation) (s : State) : Result :=
  match op with
  | .reset => .next s.afterReset
  | .load prog => s.loadProgram prog
  | .step => cycle s
  | .tick => .next s.tick
  | .keyWrite k v => .next (s.keyWrite k v)
  | .pixelQuery x y => .next (s.pixelQuery x y)
  | .dirtyConsume => .next s.dirtyConsume
  | .timerObserve => .next s.timerObserve

/-- `s` made ready for its very next step to be a Running STEP at a fetchable `pc`: nothing on the agenda, neither waiting
nor halted, and `pc` at the entry point if it was outside memory (log 34). -/
def State.readyToRun (s : State) : State :=
  { s with
    agenda := []
    waiting := false
    keyValid := false
    halted := false
    err := none
    pc := if s.pc.toNat ≤ 0x0FFE then s.pc else 0x0200 }

end Sys2Proof.Machine
end

