-- ==== Sys2Proof/Machine/Step.lean ====
section
/-! DEFINITION. One step of the machine: one interface operation of R81. The agenda says which; with nothing on it the
Execution Engine performs a STEP (log 26). -/

namespace Sys2Proof.Machine

/-- The next operation of the agenda, taken off it; a STEP when the agenda is empty. -/
def step (s : State) : Host.Outcome State Fault Refusal :=
  match s.agenda with
  | [] => cycle s
  | op :: rest => perform op { s with agenda := rest }

/-- `s` with the instruction of the bits `w` (numbered as the opcode table numbers them) stored where the very next step
fetches, and that step a Running STEP (log 33, 34). -/
def State.withFetchWord (s : State) (nbits w : Nat) : State :=
  { s.readyToRun with
    mem := s.mem.writeBytes s.readyToRun.pc.toNat (tableBytes nbits w) }

end Sys2Proof.Machine
end

