-- ==== Sys2Proof/Safety.lean ====
section
/-! DEFINITION. The terms the claims use: the modes (R225), the invariant every step keeps (R14, R15, R22, R23, R26), the
registers an instruction may write (R11, R12), and the pixels a sprite covers (R151 to R153). -/

namespace Sys2Proof.Machine

/-- Running mode (R225). -/
abbrev State.isRunning (s : State) : Prop := s.halted = false ∧ s.waiting = false

/-- Waiting mode (R225). -/
abbrev State.isWaiting (s : State) : Prop := s.halted = false ∧ s.waiting = true

/-- The next step of `s` performs a STEP, and performs it on `u`: the agenda is empty, or a STEP stands at its head and is
taken off (R49, R81; log 26). -/
def State.performsStep (s u : State) : Prop :=
  (s.agenda = [] ∧ u = s) ∨ ∃ rest, s.agenda = .step :: rest ∧ u = { s with agenda := rest }

/-- A Running core whose instruction lies inside memory: a STEP fetches it (R84, R225). -/
abbrev State.fetches (s : State) : Prop := s.isRunning ∧ s.pc.toNat ≤ 0x0FFE

/-- The instruction word at `pc` (R44, R84). -/
def State.wordAtPc (s : State) : Word :=
  wordOfBytes (s.mem.read s.pc.toNat) (s.mem.read (s.pc.toNat + 1))

/-- What holds after RESET and after every operation. -/
structure State.Inv (s : State) : Prop where
  /-- equal memories are equal data -/
  memCanonical : s.mem.wf
  /-- R26: `key_valid = 1` implies `waiting = 1` -/
  latchOnlyWhileWaiting : s.keyValid = true → s.waiting = true
  /-- R26: `waiting` and `halted` are never both 1 -/
  oneMode : ¬(s.waiting = true ∧ s.halted = true)
  /-- the mode is entered by a STEP only (R172), so no LOAD is admitted in it (R253) -/
  waitingAfterAStep : s.waiting = true → s.outcome.isSome = true
  /-- R23: `err` holds a kind exactly while `halted` is 1 -/
  haltedHasAKind : s.halted = true ↔ s.err.isSome = true
  /-- R23, R210: and that kind is fatal -/
  kindIsFatal : ∀ k, s.err = some k → k.isFatal = true
  /-- R14: the largest value any rule can put in `pc` -/
  pcBound : s.pc.toNat ≤ 0x10FE
  /-- R172: while waiting, `pc` is the address of the `Fx0A` that was fetched -/
  waitingPc : s.waiting = true → s.pc.toNat ≤ 0x0FFE
  /-- R100: an occupied slot is a value some CALL pushed -/
  stackBound : ∀ k (h : k < 16), k < s.sp.val → (s.stack[k]).toNat ≤ 0x1000

/-- The STEP of this state is not stopped: it is answered by a next state. A LOAD outside the boot order (R253) is the only
operation of the agenda that is not. -/
def State.agendaAdmitted (s : State) : Prop :=
  ∀ prog rest, s.agenda = .load prog :: rest → s.loadAdmitted = true

/-- The registers an instruction may write: its destination, `VF` where it defines a flag, the block of LOAD (R11, R12).
LD_VX_K writes its register in a later, Waiting STEP (R83, R172; D12, log 17); ADD_I does not write `VF` (D9, log 14). -/
def destinations (i : Instr) : List Nibble :=
  match i with
  | .ldImm x _ => [x]
  | .addImm x _ => [x]
  | .rnd x _ => [x]
  | .ldReg x _ => [x]
  | .or x _ => [x]
  | .and x _ => [x]
  | .xor x _ => [x]
  | .addReg x _ => [x, 0xF]
  | .sub x _ => [x, 0xF]
  | .shr x _ => [x, 0xF]
  | .shl x _ => [x, 0xF]
  | .drw _ _ _ => [0xF]
  | .ldVxDt x => [x]
  | .load x => (List.range (x.toNat + 1)).map (BitVec.ofNat 4)
  | .cls => []
  | .ret => []
  | .sys _ => []
  | .jp _ => []
  | .call _ => []
  | .seImm _ _ => []
  | .sneImm _ _ => []
  | .seReg _ _ => []
  | .sneReg _ _ => []
  | .ldI _ => []
  | .jpV0 _ => []
  | .skp _ => []
  | .sknp _ => []
  | .ldVxK _ => []
  | .ldDtVx _ => []
  | .ldStVx _ => []
  | .addI _ => []
  | .ldF _ => []
  | .bcd _ => []
  | .stor _ => []

/-- A sprite pixel of value 1 lands on column `px`, row `py` (R151 to R153). -/
def spriteCovers (policy : EdgePolicy) (ox oy : Byte) (bytes : List Byte) (px : Fin 64) (py : Fin 32) : Prop :=
  ∃ row col, ∃ h : row < bytes.length, col < 8 ∧ (bytes[row]).getLsbD (7 - col) = true ∧
    place policy ox oy col row = some (px, py)

end Sys2Proof.Machine
end

