-- ==== Sys2Proof/Certificates/Slice0/Obligations.lean ====
section
/-! DEFINITION. The statements for the provers. Each docstring says which rule of spec/ it formalises; one that rests on a
decision of the spec or on a choice of the model says so and names the log entry. -/

open Sys2Proof Sys2Proof.Machine

/-! ### Encoding and decoding -/

/-- Every well-formed instruction, with every operand at every value, decodes from its own bytes, whatever follows them.
Rests on the big-endian byte order (D1, log 7). -/
def Obligations.DecodeOfEncodeIsTheInstruction : Prop :=
  ∀ (i : Instr) (rest : List Byte), i.wellFormed = true → decode (encode i ++ rest) = .instr i rest

/-- Every word has one meaning: what a word decodes to is well-formed and encodes back to that word. For classes 5 and 9 this
rests on the low nibble being 0, the spec's own decision D5 (log 11). -/
def Obligations.EncodeOfDecodeIsTheWord : Prop :=
  ∀ (w : Word) (i : Instr), decodeWord w = some i → encodeWord i = w ∧ i.wellFormed = true

/-- R64 whole: class 0 is CLS, RET, or SYS, which reports UnsupportedOpcode and is skipped. -/
def Obligations.ClassZeroIsClsRetOrSys : Prop :=
  decodeWord 0x00E0#16 = some .cls ∧ decodeWord 0x00EE#16 = some .ret ∧
  ∀ nnn : Addr, nnn ≠ 0x0E0#12 → nnn ≠ 0x0EE#12 →
    decodeWord (0x0#4 ++ nnn) = some (.sys nnn) ∧
    ∀ s : State, exec (.sys nnn) s =
      .next { s with pc := s.pc + 2, outcome := some (.error .unsupportedOpcode) }

/-- R65 whole: ten classes have one instruction each, and every word of the class is that instruction, DRW with n = 0 too. -/
def Obligations.SingleInstructionClassesDecode : Prop :=
  ∀ (nnn : Addr) (x y n : Nibble) (nn : Byte),
    decodeWord (0x1#4 ++ nnn) = some (.jp nnn) ∧ decodeWord (0x2#4 ++ nnn) = some (.call nnn) ∧
    decodeWord (0x3#4 ++ x ++ nn) = some (.seImm x nn) ∧ decodeWord (0x4#4 ++ x ++ nn) = some (.sneImm x nn) ∧
    decodeWord (0x6#4 ++ x ++ nn) = some (.ldImm x nn) ∧ decodeWord (0x7#4 ++ x ++ nn) = some (.addImm x nn) ∧
    decodeWord (0xA#4 ++ nnn) = some (.ldI nnn) ∧ decodeWord (0xB#4 ++ nnn) = some (.jpV0 nnn) ∧
    decodeWord (0xC#4 ++ x ++ nn) = some (.rnd x nn) ∧ decodeWord (0xD#4 ++ x ++ y ++ n) = some (.drw x y n)

/-- R67 whole: class 8 dispatches on n, classes E and F on nn; every other value is UnknownOpcode, `8xy7` among them. -/
def Obligations.ClassesEightEAndFDispatch : Prop :=
  ∀ (x y n : Nibble) (nn : Byte),
    (decodeWord (0x8#4 ++ x ++ y ++ 0x0#4) = some (.ldReg x y) ∧ decodeWord (0x8#4 ++ x ++ y ++ 0x1#4) = some (.or x y) ∧
      decodeWord (0x8#4 ++ x ++ y ++ 0x2#4) = some (.and x y) ∧ decodeWord (0x8#4 ++ x ++ y ++ 0x3#4) = some (.xor x y) ∧
      decodeWord (0x8#4 ++ x ++ y ++ 0x4#4) = some (.addReg x y) ∧ decodeWord (0x8#4 ++ x ++ y ++ 0x5#4) = some (.sub x y) ∧
      decodeWord (0x8#4 ++ x ++ y ++ 0x6#4) = some (.shr x y) ∧ decodeWord (0x8#4 ++ x ++ y ++ 0xE#4) = some (.shl x y)) ∧
    (n ∈ [0x7#4, 0x8#4, 0x9#4, 0xA#4, 0xB#4, 0xC#4, 0xD#4, 0xF#4] → decodeWord (0x8#4 ++ x ++ y ++ n) = none) ∧
    decodeWord (0xE#4 ++ x ++ 0x9E#8) = some (.skp x) ∧ decodeWord (0xE#4 ++ x ++ 0xA1#8) = some (.sknp x) ∧
    (nn ≠ 0x9E#8 ∧ nn ≠ 0xA1#8 → decodeWord (0xE#4 ++ x ++ nn) = none) ∧
    (decodeWord (0xF#4 ++ x ++ 0x07#8) = some (.ldVxDt x) ∧ decodeWord (0xF#4 ++ x ++ 0x0A#8) = some (.ldVxK x) ∧
      decodeWord (0xF#4 ++ x ++ 0x15#8) = some (.ldDtVx x) ∧ decodeWord (0xF#4 ++ x ++ 0x18#8) = some (.ldStVx x) ∧
      decodeWord (0xF#4 ++ x ++ 0x1E#8) = some (.addI x) ∧ decodeWord (0xF#4 ++ x ++ 0x29#8) = some (.ldF x) ∧
      decodeWord (0xF#4 ++ x ++ 0x33#8) = some (.bcd x) ∧ decodeWord (0xF#4 ++ x ++ 0x55#8) = some (.stor x) ∧
      decodeWord (0xF#4 ++ x ++ 0x65#8) = some (.load x)) ∧
    (nn ∉ [0x07#8, 0x0A#8, 0x15#8, 0x18#8, 0x1E#8, 0x29#8, 0x33#8, 0x55#8, 0x65#8] →
      decodeWord (0xF#4 ++ x ++ nn) = none)

/-- R68: the UnknownOpcode words are exactly the five listed sets. Derived by the spec from R64 to R67. -/
def Obligations.UnknownWordsAreExactlyTheListedSets : Prop :=
  ∀ w : Word, decodeWord w = none ↔
    ((w >>> 12 = 0x5#16 ∨ w >>> 12 = 0x9#16) ∧ w &&& 0x000F#16 ≠ 0) ∨
    (w >>> 12 = 0x8#16 ∧ (w &&& 0x000F#16) ∈ [0x7#16, 0x8#16, 0x9#16, 0xA#16, 0xB#16, 0xC#16, 0xD#16, 0xF#16]) ∨
    (w >>> 12 = 0xE#16 ∧ (w &&& 0x00FF#16) ∉ [0x9E#16, 0xA1#16]) ∨
    (w >>> 12 = 0xF#16 ∧ (w &&& 0x00FF#16) ∉
      [0x07#16, 0x0A#16, 0x15#16, 0x18#16, 0x1E#16, 0x29#16, 0x33#16, 0x55#16, 0x65#16])

/-- R73's mask and match columns: a word decodes to an instruction of a row exactly when the row matches it, the two FIXED
words taking priority over SYS. -/
def Obligations.DecoderAgreesWithTheOpcodeMap : Prop :=
  (∀ (w : Word) (i : Instr), decodeWord w = some i → w &&& (opcodeRow i).mask = (opcodeRow i).pattern) ∧
  (∀ (w : Word) (i : Instr), w &&& (opcodeRow i).mask = (opcodeRow i).pattern →
    ((w = 0x00E0#16 ∨ w = 0x00EE#16) → (opcodeRow i).mask = 0xFFFF#16) →
    ∃ j, decodeWord w = some j ∧ opcodeRow j = opcodeRow i)

/-- Words written out from the spec's encodings (R61, R73, and the vectors of 95_test_vectors.md 2.1), one family each. -/
def Obligations.WordsOfEveryFamilyDecode : Prop :=
  decodeWord 0b0010_1010_1011_1100#16 = some (.call 0xABC) ∧
  decodeWord 0b0101_0001_0010_0000#16 = some (.seReg 1 2) ∧
  decodeWord 0b0110_1010_0010_1011#16 = some (.ldImm 0xA 0x2B) ∧
  decodeWord 0b1000_1010_1011_1110#16 = some (.shl 0xA 0xB) ∧
  decodeWord 0b1101_0101_1010_0011#16 = some (.drw 5 0xA 3) ∧
  decodeWord 0b1110_1111_1001_1110#16 = some (.skp 0xF) ∧
  decodeWord 0b1111_0101_0000_0111#16 = some (.ldVxDt 5) ∧
  decodeWord 0b1111_0011_0101_0101#16 = some (.stor 3)

/-! ### The STEP operation -/

/-- R84, R85: a Running STEP whose word decodes runs exactly that instruction's own rule; nothing is added around it. The
word is big-endian (D1, log 7), `pc` may be odd (D2, log 8); the STEP may stand on the agenda or come from an empty one (D27,
log 26). -/
def Obligations.StepRunsTheDecodedInstruction : Prop :=
  ∀ (s u : State) (i : Instr), s.performsStep u → u.fetches → decodeWord u.wordAtPc = some i → step s = exec i u

/-- R211: a fetched word that decodes to UnknownOpcode is reported, `pc` advances by 2 and nothing else changes. The word is
big-endian (D1, log 7), `pc` may be odd (D2, log 8); the STEP may stand on the agenda or come from an empty one (D27, log 26). -/
def Obligations.UnknownOpcodeIsReportedAndSkipped : Prop :=
  ∀ s u : State, s.performsStep u → u.fetches → decodeWord u.wordAtPc = none →
    step s = .next { u with pc := u.pc + 2, outcome := some (.error .unknownOpcode) }

/-- R82: a Halted STEP answers the halting kind again and changes nothing else. The spec's own decision D19 (log 19); the STEP
may stand on the agenda or come from an empty one (D27, log 26). -/
def Obligations.HaltedStepRepeatsTheError : Prop :=
  ∀ (s u : State) (k : ErrorKind), s.performsStep u → u.halted = true → u.err = some k →
    step s = .next { u with outcome := some (.error k) }

/-- R83: a Waiting STEP changes nothing until a key is latched, then writes it, leaves the mode and passes the `Fx0A`. The
spec's own decision D12 (log 17); the STEP may stand on the agenda or come from an empty one (D27, log 26). -/
def Obligations.WaitingStepWaitsOrCompletes : Prop :=
  ∀ s u : State, s.performsStep u → u.isWaiting →
    (u.keyValid = false → step s = .next { u with outcome := some .waiting }) ∧
    (u.keyValid = true → step s = .next { u with
      V := u.V.set u.waitX.toNat (BitVec.ofNat 8 u.keyLatch.toNat) u.waitX.isLt
      waiting := false, keyValid := false, pc := u.pc + 2, outcome := some .advanced })

/-- R84, R216: a fetch with `pc` above 0x0FFE halts with MemoryOutOfRange and changes nothing else. The spec's own decisions
D3 and D18 (log 9, 18); the STEP may stand on the agenda or come from an empty one (D27, log 26). -/
def Obligations.FetchOutsideMemoryHalts : Prop :=
  ∀ s u : State, s.performsStep u → u.isRunning → 0x0FFE < u.pc.toNat →
    step s = .next { u with
      halted := true, err := some .memoryOutOfRange, outcome := some (.error .memoryOutOfRange) }

/-! ### Control transfer -/

/-- R100: RET pops the newest entry into `pc`; with an empty stack it halts with StackUnderflow and changes nothing else
(precise halt: the spec's own decision D18, log 18). -/
def Obligations.RetPopsOrHalts : Prop :=
  ∀ s : State,
    (∀ h : 0 < s.sp.val, exec .ret s = .next { s with
      sp := ⟨s.sp.val - 1, by omega⟩, pc := s.stack[s.sp.val - 1], outcome := some .advanced }) ∧
    (s.sp.val = 0 → exec .ret s = .next { s with
      halted := true, err := some .stackUnderflow, outcome := some (.error .stackUnderflow) })

/-- R102, R104: JP loads its address, JP_V0 the unreduced 16-bit sum with `V0`; nothing else changes. The sum's width is the
spec's own decision D28 (log 27). -/
def Obligations.JumpsLoadTheirTarget : Prop :=
  ∀ (nnn : Addr) (s : State),
    exec (.jp nnn) s = .next { s with pc := BitVec.ofNat 16 nnn.toNat, outcome := some .advanced } ∧
    exec (.jpV0 nnn) s = .next { s with
      pc := BitVec.ofNat 16 (nnn.toNat + (s.reg 0).toNat), outcome := some .advanced }

/-- R103: CALL pushes `pc + 2` and jumps; the 17th nested CALL halts with StackOverflow and changes nothing else. The pushed
value and the precise halt are the spec's own decisions D4 and D18 (log 10, 18). -/
def Obligations.CallPushesOrHalts : Prop :=
  ∀ (nnn : Addr) (s : State),
    (∀ h : s.sp.val < 16, exec (.call nnn) s = .next { s with
      stack := s.stack.set s.sp.val (s.pc + 2) h, sp := ⟨s.sp.val + 1, by omega⟩
      pc := BitVec.ofNat 16 nnn.toNat, outcome := some .advanced }) ∧
    (s.sp.val = 16 → exec (.call nnn) s = .next { s with
      halted := true, err := some .stackOverflow, outcome := some (.error .stackOverflow) })

/-- "`CALL` then `RETURN` restores the exact program counter value saved before the call" (R100, R103, S9): a RET at any later
state with the stack CALL left jumps to the instruction after the CALL and leaves the depth the CALL found. Rests on D4
(log 10). -/
def Obligations.ReturnUndoesCall : Prop :=
  ∀ (nnn : Addr) (s t u : State), s.sp.val < 16 → exec (.call nnn) s = .next t → u.stack = t.stack → u.sp = t.sp →
    ∃ w, exec .ret u = .next w ∧ w.pc = s.pc + 2 ∧ w.sp = s.sp ∧
      ∀ k (h : k < 16), k < s.sp.val → w.stack[k] = s.stack[k]

/-! ### Skips -/

/-- R111, R112 whole: decoding, the condition, `pc + 4` or `pc + 2`; no register, flag or memory byte changes. -/
def Obligations.ImmediateSkipsMoveThePc : Prop :=
  ∀ (s : State) (x : Nibble) (nn : Byte),
    (decodeWord (0x3#4 ++ x ++ nn) = some (.seImm x nn) ∧ exec (.seImm x nn) s = .next { s with
      pc := if s.reg x = nn then s.pc + 4 else s.pc + 2, outcome := some .advanced }) ∧
    (decodeWord (0x4#4 ++ x ++ nn) = some (.sneImm x nn) ∧ exec (.sneImm x nn) s = .next { s with
      pc := if s.reg x ≠ nn then s.pc + 4 else s.pc + 2, outcome := some .advanced })

/-- R113, R114, R66: decoding, the condition, `pc + 4` or `pc + 2`; no register, flag or memory byte changes; x = y always
or never skips. That the low nibble must be 0 is the spec's own decision D5 (log 11). -/
def Obligations.RegisterSkipsMoveThePc : Prop :=
  ∀ (s : State) (x y : Nibble),
    (decodeWord (0x5#4 ++ x ++ y ++ 0x0#4) = some (.seReg x y) ∧ exec (.seReg x y) s = .next { s with
      pc := if s.reg x = s.reg y then s.pc + 4 else s.pc + 2, outcome := some .advanced }) ∧
    (decodeWord (0x9#4 ++ x ++ y ++ 0x0#4) = some (.sneReg x y) ∧ exec (.sneReg x y) s = .next { s with
      pc := if s.reg x ≠ s.reg y then s.pc + 4 else s.pc + 2, outcome := some .advanced }) ∧
    (∀ n : Nibble, n ≠ 0 → decodeWord (0x5#4 ++ x ++ y ++ n) = none ∧ decodeWord (0x9#4 ++ x ++ y ++ n) = none)

/-! ### Immediates -/

/-- R121 to R123 whole: LD_IMM, ADD_IMM (modulo 256, no flag) and LD_I write their one register and advance. -/
def Obligations.ImmediatesWriteTheirRegister : Prop :=
  ∀ (s : State) (x : Nibble) (nn : Byte) (nnn : Addr),
    (decodeWord (0x6#4 ++ x ++ nn) = some (.ldImm x nn) ∧ exec (.ldImm x nn) s = .next { s with
      V := s.V.set x.toNat nn x.isLt, pc := s.pc + 2, outcome := some .advanced }) ∧
    (decodeWord (0x7#4 ++ x ++ nn) = some (.addImm x nn) ∧ exec (.addImm x nn) s = .next { s with
      V := s.V.set x.toNat (BitVec.ofNat 8 (((s.reg x).toNat + nn.toNat) % 256)) x.isLt
      pc := s.pc + 2, outcome := some .advanced }) ∧
    (decodeWord (0xA#4 ++ nnn) = some (.ldI nnn) ∧ exec (.ldI nnn) s = .next { s with
      I := BitVec.ofNat 16 nnn.toNat, pc := s.pc + 2, outcome := some .advanced })

/-- R124: RND writes the step's random byte masked by nn, whatever the byte is, so the result has no 1 bit where nn has a
0 bit. The random byte is the free value of log 1 (the spec's own decision D13). -/
def Obligations.RndMasksTheRandomByte : Prop :=
  ∀ (s : State) (x : Nibble) (nn : Byte), ∃ t, exec (.rnd x nn) s = .next t ∧
    t = { s with
      V := s.V.set x.toNat (Config.rnd s.draws &&& nn) x.isLt
      draws := s.draws + 1, pc := s.pc + 2, outcome := some .advanced } ∧
    (∀ k, nn.getLsbD k = false → (t.reg x).getLsbD k = false)

/-! ### ALU -/

/-- R131 to R134 whole: copy and the three logic operations write `V[x]` and advance; `VF` is neither written nor cleared. -/
def Obligations.CopyAndLogicWriteOnlyTheirRegister : Prop :=
  ∀ (s : State) (x y : Nibble),
    (decodeWord (0x8#4 ++ x ++ y ++ 0x0#4) = some (.ldReg x y) ∧ exec (.ldReg x y) s = .next { s with
      V := s.V.set x.toNat (s.reg y) x.isLt, pc := s.pc + 2, outcome := some .advanced }) ∧
    (decodeWord (0x8#4 ++ x ++ y ++ 0x1#4) = some (.or x y) ∧ exec (.or x y) s = .next { s with
      V := s.V.set x.toNat (s.reg x ||| s.reg y) x.isLt, pc := s.pc + 2, outcome := some .advanced }) ∧
    (decodeWord (0x8#4 ++ x ++ y ++ 0x2#4) = some (.and x y) ∧ exec (.and x y) s = .next { s with
      V := s.V.set x.toNat (s.reg x &&& s.reg y) x.isLt, pc := s.pc + 2, outcome := some .advanced }) ∧
    (decodeWord (0x8#4 ++ x ++ y ++ 0x3#4) = some (.xor x y) ∧ exec (.xor x y) s = .next { s with
      V := s.V.set x.toNat (s.reg x ^^^ s.reg y) x.isLt, pc := s.pc + 2, outcome := some .advanced })

/-- R135, R136: the result modulo 256, then the flag (carry, not-borrow) from the operands before; nothing else. With x = F
the flag is what `VF` holds: the spec's own decision D6 (log 12). -/
def Obligations.AddAndSubWriteResultThenFlag : Prop :=
  ∀ (s : State) (x y : Nibble),
    exec (.addReg x y) s = .next { s with
      V := (s.V.set x.toNat (s.reg x + s.reg y) x.isLt).set 15
        (if 255 < (s.reg x).toNat + (s.reg y).toNat then 1 else 0)
      pc := s.pc + 2, outcome := some .advanced } ∧
    exec (.sub x y) s = .next { s with
      V := (s.V.set x.toNat (s.reg x - s.reg y) x.isLt).set 15
        (if (s.reg y).toNat ≤ (s.reg x).toNat then 1 else 0)
      pc := s.pc + 2, outcome := some .advanced }

/-- R137, R138: shift `V[x]` by one, then the bit shifted out into `VF`, for every y; nothing else. With x = F the flag is
what `VF` holds (D6, log 12); `V[x]` and not `V[y]` is shifted (D25, log 25). -/
def Obligations.ShiftsWriteResultThenTheBitShiftedOut : Prop :=
  ∀ (s : State) (x y : Nibble),
    exec (.shr x y) s = .next { s with
      V := (s.V.set x.toNat (s.reg x >>> 1) x.isLt).set 15 (s.reg x &&& 1)
      pc := s.pc + 2, outcome := some .advanced } ∧
    exec (.shl x y) s = .next { s with
      V := (s.V.set x.toNat (s.reg x <<< 1) x.isLt).set 15 (s.reg x >>> 7)
      pc := s.pc + 2, outcome := some .advanced }

/-! ### Display -/

/-- R150 whole: CLS decodes from 00E0, sets all pixels to 0 and `dirty` to 1, and changes nothing else but `pc`. -/
def Obligations.ClsClearsTheDisplay : Prop :=
  decodeWord 0x00E0#16 = some .cls ∧
  ∀ s : State, ∃ t, exec .cls s = .next t ∧ (∀ px py, t.fb.pixel px py = false) ∧
    t = { s with fb := t.fb, dirty := true, pc := s.pc + 2, outcome := some .advanced }

/-- R152 to R155: a DRW whose sprite lies in memory (any `I` for n = 0) inverts exactly the pixels the sprite covers, under
the machine's edge policy whichever it is; `VF` is 1 exactly if a covered pixel was 1; `dirty` is set exactly if a pixel is
covered, never cleared; nothing else changes. The range rule is D18 (log 18), the row direction D30 (log 29), the edge policy
open (log 2), Dxy0 is D8 (log 13). -/
def Obligations.DrwXorsTheCoveredPixels : Prop :=
  ∀ (s : State) (x y n : Nibble), (n.toNat = 0 ∨ s.base + n.toNat ≤ 4096) →
    ∃ t, exec (.drw x y n) s = .next t ∧
      (∀ px py,
        (spriteCovers edgePolicy (s.reg x) (s.reg y) (s.mem.readBytes s.base n.toNat) px py →
          t.fb.pixel px py = !(s.fb.pixel px py)) ∧
        (¬ spriteCovers edgePolicy (s.reg x) (s.reg y) (s.mem.readBytes s.base n.toNat) px py →
          t.fb.pixel px py = s.fb.pixel px py)) ∧
      (t.dirty = true ↔ s.dirty = true ∨
        ∃ px py, spriteCovers edgePolicy (s.reg x) (s.reg y) (s.mem.readBytes s.base n.toNat) px py) ∧
      (∃ f : Byte, (f = 0 ∨ f = 1) ∧
        (f = 1 ↔ ∃ px py, spriteCovers edgePolicy (s.reg x) (s.reg y) (s.mem.readBytes s.base n.toNat) px py ∧
          s.fb.pixel px py = true) ∧
        t = { s with
          fb := t.fb, dirty := t.dirty, V := s.V.set 15 f, pc := s.pc + 2, outcome := some .advanced })

/-- R152, R215: a DRW whose sprite runs past 4095 halts with MemoryOutOfRange; nothing is drawn and nothing else changes. The
spec's own decision D18 (log 18). -/
def Obligations.DrwOutsideMemoryHalts : Prop :=
  ∀ (s : State) (x y n : Nibble), 0 < n.toNat → 4096 < s.base + n.toNat →
    exec (.drw x y n) s = .next { s with
      halted := true, err := some .memoryOutOfRange, outcome := some (.error .memoryOutOfRange) }

/-- R156 (b), (c), (e), derived by the spec: a DRW of a sprite inside memory leaves `VF` = 1 only with `dirty` set; against
a screen that is clear where it draws it reports no collision; the same DRW again from the same origin (with x or y = F the
first one may move it) restores the framebuffer, and then reports a collision exactly if any pixel is covered. That `I` is the
same for both is the spec's own decision D24 (log 24), the range rule D18 (log 18), `Dxy0` D8 (log 13), the row direction D30
(log 29); the edge policy is open (D7, log 2). -/
def Obligations.DrawingTwiceRestoresTheScreen : Prop :=
  ∀ (s t : State) (x y n : Nibble), (n.toNat = 0 ∨ s.base + n.toNat ≤ 4096) → exec (.drw x y n) s = .next t →
    (t.reg 0xF = 1 → t.dirty = true) ∧
    ((∀ px py, spriteCovers edgePolicy (s.reg x) (s.reg y) (s.mem.readBytes s.base n.toNat) px py →
      s.fb.pixel px py = false) → t.reg 0xF = 0) ∧
    (∀ u, t.reg x = s.reg x → t.reg y = s.reg y → exec (.drw x y n) t = .next u →
      u.fb = s.fb ∧
      ((∀ px py, spriteCovers edgePolicy (s.reg x) (s.reg y) (s.mem.readBytes s.base n.toNat) px py →
        s.fb.pixel px py = false) →
        (u.reg 0xF = 1 ↔ ∃ px py,
          spriteCovers edgePolicy (s.reg x) (s.reg y) (s.mem.readBytes s.base n.toNat) px py)))

/-- R153's table: where each policy lets a sprite pixel land. The parameter is open (D7, log 2); the third policy is from
general knowledge (G4). -/
def Obligations.PlaceFollowsThePolicyTable : Prop :=
  ∀ (ox oy : Byte) (col row : Nat) (px : Fin 64) (py : Fin 32),
    (place .wrap ox oy col row = some (px, py) ↔
      px.val = (ox.toNat + col) % 64 ∧ py.val = (oy.toNat + row) % 32) ∧
    (place .clip ox oy col row = some (px, py) ↔
      px.val = ox.toNat + col ∧ py.val = oy.toNat + row) ∧
    (place .wrapOriginClip ox oy col row = some (px, py) ↔
      px.val = ox.toNat % 64 + col ∧ py.val = oy.toNat % 32 + row) ∧
    (place .wrap ox oy col row).isSome = true

/-! ### Keypad -/

/-- R170, R171: SKP and SKNP test the level of the key that the low 4 bits of `V[x]` select and move `pc` only. The masking is
the spec's own decision D11 (log 16). -/
def Obligations.KeySkipsTestTheSelectedKey : Prop :=
  ∀ (s : State) (x : Nibble),
    exec (.skp x) s = .next { s with
      pc := if s.keys[(s.reg x).toNat % 16]'(Nat.mod_lt _ (by decide)) = true then s.pc + 4 else s.pc + 2
      outcome := some .advanced } ∧
    exec (.sknp x) s = .next { s with
      pc := if s.keys[(s.reg x).toNat % 16]'(Nat.mod_lt _ (by decide)) = false then s.pc + 4 else s.pc + 2
      outcome := some .advanced }

/-- R172: LD_VX_K enters Waiting with `pc` unchanged. The spec's own decision D12 (log 17). -/
def Obligations.LdVxKEntersWaiting : Prop :=
  ∀ (s : State) (x : Nibble), exec (.ldVxK x) s = .next { s with
    waiting := true, waitX := x, keyValid := false, outcome := some .waiting }

/-- R172, R173, R83 together: while Waiting with nothing latched, a press of a released key followed by a STEP delivers that
key in `V[wait_x]` and goes on after the `Fx0A`; a write that is no 0-to-1 transition leaves the STEP waiting. The spec's
own decision D12 (log 17). -/
def Obligations.KeyPressCompletesTheWait : Prop :=
  ∀ (s : State) (k : Nibble) (v : Bool), s.isWaiting → s.keyValid = false → s.agenda = [.keyWrite k v, .step] →
    ∃ t u, step s = .next t ∧ step t = .next u ∧ u.key k = v ∧
      (s.key k = false ∧ v = true →
        u.isRunning ∧ u.pc = s.pc + 2 ∧ u.reg s.waitX = BitVec.ofNat 8 k.toNat ∧ u.outcome = some .advanced) ∧
      (¬(s.key k = false ∧ v = true) →
        u.isWaiting ∧ u.pc = s.pc ∧ u.V = s.V ∧ u.keyValid = false ∧ u.outcome = some .waiting)

/-! ### Timers -/

/-- R185 to R187 whole: the timer instructions move a timer's value in or out and advance; no timer counts. -/
def Obligations.TimerInstructionsMoveTheCount : Prop :=
  ∀ (s : State) (x : Nibble),
    (decodeWord (0xF#4 ++ x ++ 0x07#8) = some (.ldVxDt x) ∧ exec (.ldVxDt x) s = .next { s with
      V := s.V.set x.toNat s.DT x.isLt, pc := s.pc + 2, outcome := some .advanced }) ∧
    (decodeWord (0xF#4 ++ x ++ 0x15#8) = some (.ldDtVx x) ∧ exec (.ldDtVx x) s = .next { s with
      DT := s.reg x, pc := s.pc + 2, outcome := some .advanced }) ∧
    (decodeWord (0xF#4 ++ x ++ 0x18#8) = some (.ldStVx x) ∧ exec (.ldStVx x) s = .next { s with
      ST := s.reg x, pc := s.pc + 2, outcome := some .advanced })

/-! ### Address register and memory -/

/-- R196, R197: ADD_I adds modulo 65536 and writes no flag; LD_F applies the formula to the whole byte; nothing else. The
spec's own decisions D9 and D10 (log 14, 15). -/
def Obligations.AddressRegisterArithmetic : Prop :=
  ∀ (s : State) (x : Nibble),
    exec (.addI x) s = .next { s with
      I := BitVec.ofNat 16 ((s.I.toNat + (s.reg x).toNat) % 65536), pc := s.pc + 2, outcome := some .advanced } ∧
    exec (.ldF x) s = .next { s with
      I := BitVec.ofNat 16 (0x50 + 5 * (s.reg x).toNat), pc := s.pc + 2, outcome := some .advanced }

/-- R198: BCD stores hundreds, tens and ones at `I`, `I + 1`, `I + 2`, every other byte reads as before and nothing
else changes; with `I` above 4093 it halts with MemoryOutOfRange and nothing is written (the spec's own decision D18, log 18). Memory is in
its canonical form (an invariant, StepKeepsTheInvariant). -/
def Obligations.BcdStoresTheDecimalDigits : Prop :=
  ∀ (s : State) (x : Nibble),
    decodeWord (0xF#4 ++ x ++ 0x33#8) = some (.bcd x) ∧
    (s.mem.wf → s.base ≤ 4093 → ∃ t, exec (.bcd x) s = .next t ∧
      t.mem.read s.base = BitVec.ofNat 8 ((s.reg x).toNat / 100) ∧
      t.mem.read (s.base + 1) = BitVec.ofNat 8 ((s.reg x).toNat / 10 % 10) ∧
      t.mem.read (s.base + 2) = BitVec.ofNat 8 ((s.reg x).toNat % 10) ∧
      (∀ a, a < s.base ∨ s.base + 3 ≤ a → t.mem.read a = s.mem.read a) ∧
      t = { s with mem := t.mem, pc := s.pc + 2, outcome := some .advanced }) ∧
    (4093 < s.base → exec (.bcd x) s = .next { s with
      halted := true, err := some .memoryOutOfRange, outcome := some (.error .memoryOutOfRange) })

/-- R199: STOR writes `V0` to `Vx` at `I` upward, every other byte reads as before and nothing else changes; a block that
runs past 4095 halts with MemoryOutOfRange and no byte is written (the spec's own decision D18, log 18; `I` unchanged is D24,
log 24). -/
def Obligations.StorWritesTheRegisterBlock : Prop :=
  ∀ (s : State) (x : Nibble),
    (s.mem.wf → s.base + x.toNat ≤ 4095 → ∃ t, exec (.stor x) s = .next t ∧
      (∀ k (h : k < 16), k ≤ x.toNat → t.mem.read (s.base + k) = s.V[k]) ∧
      (∀ a, a < s.base ∨ s.base + x.toNat < a → t.mem.read a = s.mem.read a) ∧
      t = { s with mem := t.mem, pc := s.pc + 2, outcome := some .advanced }) ∧
    (4095 < s.base + x.toNat → exec (.stor x) s = .next { s with
      halted := true, err := some .memoryOutOfRange, outcome := some (.error .memoryOutOfRange) })

/-- R200: LOAD reads `V0` to `Vx` from `I` upward, every other register keeps its value and nothing else changes; a block that
runs past 4095 halts with MemoryOutOfRange and no register is loaded (D18, log 18). -/
def Obligations.LoadReadsTheRegisterBlock : Prop :=
  ∀ (s : State) (x : Nibble),
    (s.base + x.toNat ≤ 4095 → ∃ t, exec (.load x) s = .next t ∧
      (∀ k (h : k < 16), k ≤ x.toNat → t.V[k] = s.mem.read (s.base + k)) ∧
      (∀ k (h : k < 16), x.toNat < k → t.V[k] = s.V[k]) ∧
      t = { s with V := t.V, pc := s.pc + 2, outcome := some .advanced }) ∧
    (4095 < s.base + x.toNat → exec (.load x) s = .next { s with
      halted := true, err := some .memoryOutOfRange, outcome := some (.error .memoryOutOfRange) })

/-- R200's round trip: STOR of `V0` to `Vx`, then, with whatever has happened to the registers, LOAD from the same `I` and
memory gives the original values back. -/
def Obligations.LoadAfterStorRestoresTheRegisters : Prop :=
  ∀ (s t u : State) (x : Nibble), s.mem.wf → s.base + x.toNat ≤ 4095 → exec (.stor x) s = .next t →
    u.mem = t.mem → u.I = s.I →
    ∃ w, exec (.load x) u = .next w ∧ ∀ k (h : k < 16), k ≤ x.toNat → w.V[k] = s.V[k]

/-- R50, derived by the spec: a store is seen by the very next fetch. After a STOR of at least two registers, a fetch at the
stored address reads the word `V0 || V1`. Byte order D1 (log 7). -/
def Obligations.FetchSeesAStoreAtOnce : Prop :=
  ∀ (s t : State) (x : Nibble), s.mem.wf → s.base + x.toNat ≤ 4095 → 1 ≤ x.toNat → exec (.stor x) s = .next t →
    State.wordAtPc { t with pc := s.I } = s.reg 0 ++ s.reg 1

/-- Two canonical memories that read the same everywhere are the same data. -/
def Obligations.EqualReadsAreEqualMemories : Prop :=
  ∀ m₁ m₂ : Memory, m₁.wf → m₂.wf → (∀ a, m₁.read a = m₂.read a) → m₁ = m₂

/-! ### Rules about the whole machine -/

/-- R46, R53, R201: BCD and STOR are the only instructions that write memory; every other leaves every byte as it was. -/
def Obligations.OnlyBcdAndStorWriteMemory : Prop :=
  ∀ (i : Instr) (s t : State), exec i s = .next t → (∀ x, i ≠ .bcd x) → (∀ x, i ≠ .stor x) →
    ∀ a, t.mem.read a = s.mem.read a

/-- R13, R15 to R20, R174 and R25's access table: the display is written by CLS and DRW only, and no instruction clears
`dirty`; no instruction writes a key or counts a timer; `DT`, `ST`, `I` and the stack have the listed writers only. That the
memory instructions and DRW are no writers of `I` is the spec's own decision D24 (log 24). -/
def Obligations.SpecialStateHasOnlyItsListedWriters : Prop :=
  ∀ (i : Instr) (s t : State), exec i s = .next t →
    (i ≠ .cls → (∀ x y n, i ≠ .drw x y n) → t.fb = s.fb ∧ t.dirty = s.dirty) ∧
    (s.dirty = true → t.dirty = true) ∧
    t.keys = s.keys ∧
    ((∀ x, i ≠ .ldDtVx x) → t.DT = s.DT) ∧
    ((∀ x, i ≠ .ldStVx x) → t.ST = s.ST) ∧
    ((∀ nnn, i ≠ .ldI nnn) → (∀ x, i ≠ .addI x) → (∀ x, i ≠ .ldF x) → t.I = s.I) ∧
    (i ≠ .ret → (∀ nnn, i ≠ .call nnn) → t.stack = s.stack ∧ t.sp = s.sp)

/-- R11, R12: an instruction writes no general register but those `destinations` lists: the x of the instructions that have a
result in `V[x]`, `VF` where a flag is defined, `V0` to `Vx` of LOAD; the others list none. LD_VX_K lists none because its own
STEP only enters the wait (R172), the spec's own decision D12 (log 17), and ADD_I does not list `VF`, the spec's own decision
D9 (log 14). -/
def Obligations.RegistersHaveOnlyTheirListedWriters : Prop :=
  ∀ (i : Instr) (s t : State) (r : Nibble), exec i s = .next t → r ∉ destinations i → t.reg r = s.reg r

/-- R14's table for every instruction of a core that is not Halted: `pc` unchanged by a fatal error (D18, log 18), the
target of a transfer, `pc + 4` or `pc + 2` of a skip by its condition, `pc` unchanged by LD_VX_K (D12, log 17), else `pc + 2`.
The stacked value is D4 (log 10), the key index D11 (log 16), JP_V0's sum D28 (log 27). The table's rows for UnknownOpcode and
for Waiting and Halted STEPs are UnknownOpcodeIsReportedAndSkipped, WaitingStepWaitsOrCompletes, HaltedStepRepeatsTheError. -/
def Obligations.PcAfterEveryInstruction : Prop :=
  ∀ (i : Instr) (s t : State), s.halted = false → exec i s = .next t →
    if t.halted = true then t.pc = s.pc
    else match i with
      | .jp nnn => t.pc.toNat = nnn.toNat
      | .call nnn => t.pc.toNat = nnn.toNat
      | .ret => ∃ _ : 0 < s.sp.val, t.pc = s.stack[s.sp.val - 1]
      | .jpV0 nnn => t.pc.toNat = nnn.toNat + (s.reg 0).toNat
      | .seImm x nn => t.pc = if s.reg x = nn then s.pc + 4 else s.pc + 2
      | .sneImm x nn => t.pc = if s.reg x ≠ nn then s.pc + 4 else s.pc + 2
      | .seReg x y => t.pc = if s.reg x = s.reg y then s.pc + 4 else s.pc + 2
      | .sneReg x y => t.pc = if s.reg x ≠ s.reg y then s.pc + 4 else s.pc + 2
      | .skp x => t.pc = if s.key (keyIndex (s.reg x)) = true then s.pc + 4 else s.pc + 2
      | .sknp x => t.pc = if s.key (keyIndex (s.reg x)) = false then s.pc + 4 else s.pc + 2
      | .ldVxK _ => t.pc = s.pc
      | _ => t.pc = s.pc + 2

/-- R213 to R216: an instruction halts the core exactly on the conditions of the error table, and then changes `halted`, `err`
and the outcome only. The precise entry is the spec's own decision D18 (log 18). -/
def Obligations.HaltExactlyOnTheListedConditions : Prop :=
  ∀ (i : Instr) (s t : State), s.halted = false → exec i s = .next t →
    (t.halted = true ↔
      ((∃ nnn, i = .call nnn) ∧ s.sp.val = 16) ∨
      (i = .ret ∧ s.sp.val = 0) ∨
      (∃ x y n, i = .drw x y n ∧ 0 < n.toNat ∧ 4095 < s.base + n.toNat - 1) ∨
      ((∃ x, i = .bcd x) ∧ 4095 < s.base + 2) ∨
      (∃ x, (i = .stor x ∨ i = .load x) ∧ 4095 < s.base + x.toNat)) ∧
    (t.halted = true → ∃ k, k.isFatal = true ∧
      t = { s with halted := true, err := some k, outcome := some (.error k) })

/-- R63, R85, R210: every instruction, with any operands, in any state, has an effect: exec always answers a next state. -/
def Obligations.EveryInstructionAnswersANextState : Prop :=
  ∀ (i : Instr) (s : State), ∃ t, exec i s = .next t

/-- R81, R91: a step is never stopped but by a LOAD outside the boot order, which is refused by name (U11, log 22). -/
def Obligations.StepStopsOnlyForAMisplacedLoad : Prop :=
  ∀ s : State, (s.agendaAdmitted → ∃ t, step s = .next t) ∧
    (¬ s.agendaAdmitted → step s = .refused .loadOutsideBoot)

/-- R176, derived by the spec: while Waiting, every operation but RESET and the completing STEP changes only keys, the latch,
the timers and `dirty` (and the model's own result fields). -/
def Obligations.WaitingCoreIsInert : Prop :=
  ∀ (op : Operation) (s t : State), s.Inv → s.isWaiting → op ≠ .reset → (op = .step → s.keyValid = false) →
    perform op s = .next t →
    t = { s with
      keys := t.keys, keyValid := t.keyValid, keyLatch := t.keyLatch, DT := t.DT, ST := t.ST, dirty := t.dirty
      outcome := t.outcome, reply := t.reply }

/-! ### The invariant -/

/-- R26, R27: the state after RESET meets the invariant. It rests on the reset values the spec's own decisions D12, D14, D17,
D20 give (log 5); that its memory is canonical is about the model's own form of memory (log 6), and `outcome` is the model's
own field (log 31). -/
def Obligations.ResetMeetsTheInvariant : Prop := State.reset.Inv

/-- R14, R22, R23, R26: every step, whatever operation it performs, keeps the invariant: canonical memory, one mode at a
time, a latch only while waiting, a fatal kind exactly while halted, `pc` at most 0x10FE, stacked addresses at most 0x1000.
The clause of canonical memory is the model's own form (log 6); that a Waiting core has an outcome is about the model's own
field and admits no LOAD then (log 22, 31). The bound 0x10FE rests on the spec's own decision D28 (log 27), 0x1000 on D4 (log
10) and D3 (log 9), the latch clause and the `pc` of a Waiting core on D12 (log 17), the kind that stays with `halted` on D19
(log 19). -/
def Obligations.StepKeepsTheInvariant : Prop :=
  ∀ s t : State, s.Inv → step s = .next t → t.Inv

/-! ### Host operations and reset -/

/-- R230: a TICK decrements each timer unless it is 0 and changes nothing else, in every mode (D27, log 26). -/
def Obligations.TickCountsBothTimersDown : Prop :=
  ∀ (s : State) (rest : List Operation), s.agenda = .tick :: rest →
    step s = .next { s with
      agenda := rest, reply := none
      DT := BitVec.ofNat 8 (s.DT.toNat - 1), ST := BitVec.ofNat 8 (s.ST.toNat - 1) }

/-- R188, R230: after n TICKs a timer reads its count less n, floored at 0. -/
def Obligations.TimersReachZeroAndStay : Prop :=
  ∀ (n : Nat) (s : State),
    (State.tick^[n] s).DT.toNat = s.DT.toNat - n ∧ (State.tick^[n] s).ST.toNat = s.ST.toNat - n

/-- R173: a KEY_WRITE writes its slot and, exactly on a 0-to-1 write while Waiting with nothing latched, the latch; nothing
else. The latch protocol is the spec's own decision D12 (log 17). -/
def Obligations.KeyWriteSetsTheSlotAndMayLatch : Prop :=
  ∀ (s : State) (k : Nibble) (v : Bool) (rest : List Operation), s.agenda = .keyWrite k v :: rest →
    (s.waiting = true ∧ s.keyValid = false ∧ s.key k = false ∧ v = true → step s = .next { s with
      agenda := rest, reply := none, keys := s.keys.set k.toNat true k.isLt, keyLatch := k, keyValid := true }) ∧
    (¬(s.waiting = true ∧ s.keyValid = false ∧ s.key k = false ∧ v = true) → step s = .next { s with
      agenda := rest, reply := none, keys := s.keys.set k.toNat v k.isLt })

/-- R253: the first LOAD since RESET, before any STEP, writes its bytes from 0x200 upward and nothing else; one of more than
3584 bytes halts with LoadTooLarge and writes no byte; any other LOAD is refused. What a failed LOAD leaves and the refusal are
the spec's own decision D22 (log 22). -/
def Obligations.LoadPlacesTheProgramOrHalts : Prop :=
  ∀ (s : State) (prog : List Byte) (rest : List Operation), s.agenda = .load prog :: rest →
    (s.mem.wf → s.loaded = false → s.outcome = none → prog.length ≤ 3584 → ∃ t, step s = .next t ∧
      (∀ k (h : k < prog.length), t.mem.read (0x200 + k) = prog[k]) ∧
      (∀ a, a < 0x200 ∨ 0x200 + prog.length ≤ a → t.mem.read a = s.mem.read a) ∧
      t = { s with agenda := rest, mem := t.mem, loaded := true, reply := some .loadOk }) ∧
    (s.loaded = false → s.outcome = none → 3584 < prog.length → step s = .next { s with
      agenda := rest, halted := true, err := some .loadTooLarge, loaded := true
      reply := some (.loadError .loadTooLarge) }) ∧
    (s.loaded = true ∨ s.outcome ≠ none → step s = .refused .loadOutsideBoot)

/-- R218, R250: RESET, in any mode, puts every element of the core at its reset value; only the random source and the
operations to come go on (the model's own fields, log 35). Where the source states no reset value, the value is the spec's own
decision: `V` and `I` D14 (log 4), the other elements D12, D14, D17, D20 (log 5), the zero fill and that nothing survives D15
(log 6). `outcome`, `reply` and `loaded` are the model's own fields (log 22, 31). -/
def Obligations.ResetRestoresEveryElement : Prop :=
  ∀ (s : State) (rest : List Operation), s.agenda = .reset :: rest →
    step s = .next { State.reset with draws := s.draws, agenda := rest }

/-- R158, R159, R232: the three queries answer the pixel, the dirty flag, the timers; only DIRTY_CONSUME changes the core, by
clearing the flag. D17 and D31 are the spec's own decisions (log 5, 30). -/
def Obligations.QueriesAnswerAndChangeNothing : Prop :=
  ∀ (s : State) (rest : List Operation),
    (∀ x y, s.agenda = .pixelQuery x y :: rest →
      step s = .next { s with agenda := rest, reply := some (.pixel (s.fb[y.val][x.val])) }) ∧
    (s.agenda = .dirtyConsume :: rest →
      step s = .next { s with agenda := rest, dirty := false, reply := some (.dirty s.dirty) }) ∧
    (s.agenda = .timerObserve :: rest →
      step s = .next { s with agenda := rest, reply := some (.timers s.DT s.ST) })

/-- R27, the rows whose ground is the source: `pc` 0x200, an empty stack, both timers 0, a cleared framebuffer, the font at
0x050 to 0x09F whatever its bytes are (log 3). -/
def Obligations.ResetLeavesTheValuesTheSourceStates : Prop :=
  State.reset.pc = 0x0200 ∧ State.reset.sp = 0 ∧ State.reset.DT = 0 ∧ State.reset.ST = 0 ∧
  (∀ px py, State.reset.fb.pixel px py = false) ∧
  (∀ k (h : k < 80), State.reset.mem.read (0x50 + k) = Config.font[k])

/-- R27, the rows whose ground is a decision of the spec (D12, D14, D15, D17, D20; log 4, 5, 6): all zero, Running mode. The
model's choice, no rule of the source. -/
def Obligations.ResetLeavesTheDecidedZeros : Prop :=
  (∀ r, State.reset.reg r = 0) ∧ State.reset.I = 0 ∧ (∀ k, State.reset.key k = false) ∧
  (∀ k (h : k < 16), State.reset.stack[k] = 0) ∧ State.reset.dirty = false ∧ State.reset.isRunning ∧
  State.reset.keyValid = false ∧ State.reset.errCode = 0 ∧
  (∀ a, a < 0x50 ∨ 0xA0 ≤ a → State.reset.mem.read a = 0)
end

