-- ==== Sys2Proof/Laws/State.lean ====
section
/-! SUPPORT. What each update of State does to each field: one lemma a field, true by rfl, so that no proof unfolds an
update. First the accessors of a register, then one section an update. -/

namespace Sys2Proof.Machine

variable (s : State)

@[simp] theorem State.reg_setReg_same (x : Nibble) (b : Byte) : (s.setReg x b).reg x = b := by
  simp [State.reg, State.setReg]

theorem State.reg_setReg_other (x y : Nibble) (b : Byte) (h : x ≠ y) : (s.setReg x b).reg y = s.reg y := by
  have hxy : x.toNat ≠ y.toNat := fun e => h (BitVec.eq_of_toNat_eq e)
  simp [State.reg, State.setReg, hxy]

/-- A register write, read back anywhere. -/
theorem State.reg_setReg (x y : Nibble) (b : Byte) :
    (s.setReg x b).reg y = if x = y then b else s.reg y := by
  split
  · next h => subst h; simp
  · next h => exact s.reg_setReg_other x y b h

/-- A register depends on the register file alone. -/
theorem State.reg_congr {s t : State} (h : s.V = t.V) (x : Nibble) : s.reg x = t.reg x := by
  simp [State.reg, h]

/-- The flag is what `VF` holds afterwards, whatever x is (R130). -/
@[simp] theorem State.reg_setRegAndFlag_vf (x : Nibble) (r : Byte) (f : Bool) :
    (s.setRegAndFlag x r f).reg VF = flagByte f := by
  simp [State.setRegAndFlag]

/-- A result lands in `V[x]` unless x is `VF` (R130). -/
theorem State.reg_setRegAndFlag_dest (x : Nibble) (r : Byte) (f : Bool) (h : x ≠ VF) :
    (s.setRegAndFlag x r f).reg x = r := by
  simp [State.setRegAndFlag, State.reg_setReg_other _ VF x _ (Ne.symm h)]


/-! #### setReg -/

@[simp] theorem State.setReg_mem (x : Nibble) (b : Byte) : (s.setReg x b).mem = s.mem := rfl
@[simp] theorem State.setReg_V (x : Nibble) (b : Byte) : (s.setReg x b).V = s.V.set x.toNat b x.isLt := rfl
@[simp] theorem State.setReg_I (x : Nibble) (b : Byte) : (s.setReg x b).I = s.I := rfl
@[simp] theorem State.setReg_pc (x : Nibble) (b : Byte) : (s.setReg x b).pc = s.pc := rfl
@[simp] theorem State.setReg_stack (x : Nibble) (b : Byte) : (s.setReg x b).stack = s.stack := rfl
@[simp] theorem State.setReg_sp (x : Nibble) (b : Byte) : (s.setReg x b).sp = s.sp := rfl
@[simp] theorem State.setReg_DT (x : Nibble) (b : Byte) : (s.setReg x b).DT = s.DT := rfl
@[simp] theorem State.setReg_ST (x : Nibble) (b : Byte) : (s.setReg x b).ST = s.ST := rfl
@[simp] theorem State.setReg_keys (x : Nibble) (b : Byte) : (s.setReg x b).keys = s.keys := rfl
@[simp] theorem State.setReg_fb (x : Nibble) (b : Byte) : (s.setReg x b).fb = s.fb := rfl
@[simp] theorem State.setReg_dirty (x : Nibble) (b : Byte) : (s.setReg x b).dirty = s.dirty := rfl
@[simp] theorem State.setReg_waiting (x : Nibble) (b : Byte) : (s.setReg x b).waiting = s.waiting := rfl
@[simp] theorem State.setReg_waitX (x : Nibble) (b : Byte) : (s.setReg x b).waitX = s.waitX := rfl
@[simp] theorem State.setReg_keyValid (x : Nibble) (b : Byte) : (s.setReg x b).keyValid = s.keyValid := rfl
@[simp] theorem State.setReg_keyLatch (x : Nibble) (b : Byte) : (s.setReg x b).keyLatch = s.keyLatch := rfl
@[simp] theorem State.setReg_halted (x : Nibble) (b : Byte) : (s.setReg x b).halted = s.halted := rfl
@[simp] theorem State.setReg_err (x : Nibble) (b : Byte) : (s.setReg x b).err = s.err := rfl
@[simp] theorem State.setReg_outcome (x : Nibble) (b : Byte) : (s.setReg x b).outcome = s.outcome := rfl
@[simp] theorem State.setReg_reply (x : Nibble) (b : Byte) : (s.setReg x b).reply = s.reply := rfl
@[simp] theorem State.setReg_loaded (x : Nibble) (b : Byte) : (s.setReg x b).loaded = s.loaded := rfl
@[simp] theorem State.setReg_draws (x : Nibble) (b : Byte) : (s.setReg x b).draws = s.draws := rfl
@[simp] theorem State.setReg_agenda (x : Nibble) (b : Byte) : (s.setReg x b).agenda = s.agenda := rfl

/-! #### jump -/

@[simp] theorem State.jump_mem (w : Word) : (s.jump w).mem = s.mem := rfl
@[simp] theorem State.jump_V (w : Word) : (s.jump w).V = s.V := rfl
@[simp] theorem State.jump_I (w : Word) : (s.jump w).I = s.I := rfl
@[simp] theorem State.jump_pc (w : Word) : (s.jump w).pc = w := rfl
@[simp] theorem State.jump_stack (w : Word) : (s.jump w).stack = s.stack := rfl
@[simp] theorem State.jump_sp (w : Word) : (s.jump w).sp = s.sp := rfl
@[simp] theorem State.jump_DT (w : Word) : (s.jump w).DT = s.DT := rfl
@[simp] theorem State.jump_ST (w : Word) : (s.jump w).ST = s.ST := rfl
@[simp] theorem State.jump_keys (w : Word) : (s.jump w).keys = s.keys := rfl
@[simp] theorem State.jump_fb (w : Word) : (s.jump w).fb = s.fb := rfl
@[simp] theorem State.jump_dirty (w : Word) : (s.jump w).dirty = s.dirty := rfl
@[simp] theorem State.jump_waiting (w : Word) : (s.jump w).waiting = s.waiting := rfl
@[simp] theorem State.jump_waitX (w : Word) : (s.jump w).waitX = s.waitX := rfl
@[simp] theorem State.jump_keyValid (w : Word) : (s.jump w).keyValid = s.keyValid := rfl
@[simp] theorem State.jump_keyLatch (w : Word) : (s.jump w).keyLatch = s.keyLatch := rfl
@[simp] theorem State.jump_halted (w : Word) : (s.jump w).halted = s.halted := rfl
@[simp] theorem State.jump_err (w : Word) : (s.jump w).err = s.err := rfl
@[simp] theorem State.jump_outcome (w : Word) : (s.jump w).outcome = some .advanced := rfl
@[simp] theorem State.jump_reply (w : Word) : (s.jump w).reply = s.reply := rfl
@[simp] theorem State.jump_loaded (w : Word) : (s.jump w).loaded = s.loaded := rfl
@[simp] theorem State.jump_draws (w : Word) : (s.jump w).draws = s.draws := rfl
@[simp] theorem State.jump_agenda (w : Word) : (s.jump w).agenda = s.agenda := rfl

/-! #### advance -/

@[simp] theorem State.advance_mem : s.advance.mem = s.mem := rfl
@[simp] theorem State.advance_V : s.advance.V = s.V := rfl
@[simp] theorem State.advance_I : s.advance.I = s.I := rfl
@[simp] theorem State.advance_pc : s.advance.pc = s.pc + 2 := rfl
@[simp] theorem State.advance_stack : s.advance.stack = s.stack := rfl
@[simp] theorem State.advance_sp : s.advance.sp = s.sp := rfl
@[simp] theorem State.advance_DT : s.advance.DT = s.DT := rfl
@[simp] theorem State.advance_ST : s.advance.ST = s.ST := rfl
@[simp] theorem State.advance_keys : s.advance.keys = s.keys := rfl
@[simp] theorem State.advance_fb : s.advance.fb = s.fb := rfl
@[simp] theorem State.advance_dirty : s.advance.dirty = s.dirty := rfl
@[simp] theorem State.advance_waiting : s.advance.waiting = s.waiting := rfl
@[simp] theorem State.advance_waitX : s.advance.waitX = s.waitX := rfl
@[simp] theorem State.advance_keyValid : s.advance.keyValid = s.keyValid := rfl
@[simp] theorem State.advance_keyLatch : s.advance.keyLatch = s.keyLatch := rfl
@[simp] theorem State.advance_halted : s.advance.halted = s.halted := rfl
@[simp] theorem State.advance_err : s.advance.err = s.err := rfl
@[simp] theorem State.advance_outcome : s.advance.outcome = some .advanced := rfl
@[simp] theorem State.advance_reply : s.advance.reply = s.reply := rfl
@[simp] theorem State.advance_loaded : s.advance.loaded = s.loaded := rfl
@[simp] theorem State.advance_draws : s.advance.draws = s.draws := rfl
@[simp] theorem State.advance_agenda : s.advance.agenda = s.agenda := rfl

/-! #### skipIf -/

@[simp] theorem State.skipIf_mem (c : Bool) : (s.skipIf c).mem = s.mem := rfl
@[simp] theorem State.skipIf_V (c : Bool) : (s.skipIf c).V = s.V := rfl
@[simp] theorem State.skipIf_I (c : Bool) : (s.skipIf c).I = s.I := rfl
@[simp] theorem State.skipIf_pc (c : Bool) : (s.skipIf c).pc = if c then s.pc + 4 else s.pc + 2 := rfl
@[simp] theorem State.skipIf_stack (c : Bool) : (s.skipIf c).stack = s.stack := rfl
@[simp] theorem State.skipIf_sp (c : Bool) : (s.skipIf c).sp = s.sp := rfl
@[simp] theorem State.skipIf_DT (c : Bool) : (s.skipIf c).DT = s.DT := rfl
@[simp] theorem State.skipIf_ST (c : Bool) : (s.skipIf c).ST = s.ST := rfl
@[simp] theorem State.skipIf_keys (c : Bool) : (s.skipIf c).keys = s.keys := rfl
@[simp] theorem State.skipIf_fb (c : Bool) : (s.skipIf c).fb = s.fb := rfl
@[simp] theorem State.skipIf_dirty (c : Bool) : (s.skipIf c).dirty = s.dirty := rfl
@[simp] theorem State.skipIf_waiting (c : Bool) : (s.skipIf c).waiting = s.waiting := rfl
@[simp] theorem State.skipIf_waitX (c : Bool) : (s.skipIf c).waitX = s.waitX := rfl
@[simp] theorem State.skipIf_keyValid (c : Bool) : (s.skipIf c).keyValid = s.keyValid := rfl
@[simp] theorem State.skipIf_keyLatch (c : Bool) : (s.skipIf c).keyLatch = s.keyLatch := rfl
@[simp] theorem State.skipIf_halted (c : Bool) : (s.skipIf c).halted = s.halted := rfl
@[simp] theorem State.skipIf_err (c : Bool) : (s.skipIf c).err = s.err := rfl
@[simp] theorem State.skipIf_outcome (c : Bool) : (s.skipIf c).outcome = some .advanced := rfl
@[simp] theorem State.skipIf_reply (c : Bool) : (s.skipIf c).reply = s.reply := rfl
@[simp] theorem State.skipIf_loaded (c : Bool) : (s.skipIf c).loaded = s.loaded := rfl
@[simp] theorem State.skipIf_draws (c : Bool) : (s.skipIf c).draws = s.draws := rfl
@[simp] theorem State.skipIf_agenda (c : Bool) : (s.skipIf c).agenda = s.agenda := rfl

/-! #### setRegAndFlag -/

@[simp] theorem State.setRegAndFlag_mem (x : Nibble) (r : Byte) (f : Bool) : (s.setRegAndFlag x r f).mem = s.mem := rfl
@[simp] theorem State.setRegAndFlag_V (x : Nibble) (r : Byte) (f : Bool) : (s.setRegAndFlag x r f).V = ((s.setReg x r).setReg VF (flagByte f)).V := rfl
@[simp] theorem State.setRegAndFlag_I (x : Nibble) (r : Byte) (f : Bool) : (s.setRegAndFlag x r f).I = s.I := rfl
@[simp] theorem State.setRegAndFlag_pc (x : Nibble) (r : Byte) (f : Bool) : (s.setRegAndFlag x r f).pc = s.pc := rfl
@[simp] theorem State.setRegAndFlag_stack (x : Nibble) (r : Byte) (f : Bool) : (s.setRegAndFlag x r f).stack = s.stack := rfl
@[simp] theorem State.setRegAndFlag_sp (x : Nibble) (r : Byte) (f : Bool) : (s.setRegAndFlag x r f).sp = s.sp := rfl
@[simp] theorem State.setRegAndFlag_DT (x : Nibble) (r : Byte) (f : Bool) : (s.setRegAndFlag x r f).DT = s.DT := rfl
@[simp] theorem State.setRegAndFlag_ST (x : Nibble) (r : Byte) (f : Bool) : (s.setRegAndFlag x r f).ST = s.ST := rfl
@[simp] theorem State.setRegAndFlag_keys (x : Nibble) (r : Byte) (f : Bool) : (s.setRegAndFlag x r f).keys = s.keys := rfl
@[simp] theorem State.setRegAndFlag_fb (x : Nibble) (r : Byte) (f : Bool) : (s.setRegAndFlag x r f).fb = s.fb := rfl
@[simp] theorem State.setRegAndFlag_dirty (x : Nibble) (r : Byte) (f : Bool) : (s.setRegAndFlag x r f).dirty = s.dirty := rfl
@[simp] theorem State.setRegAndFlag_waiting (x : Nibble) (r : Byte) (f : Bool) : (s.setRegAndFlag x r f).waiting = s.waiting := rfl
@[simp] theorem State.setRegAndFlag_waitX (x : Nibble) (r : Byte) (f : Bool) : (s.setRegAndFlag x r f).waitX = s.waitX := rfl
@[simp] theorem State.setRegAndFlag_keyValid (x : Nibble) (r : Byte) (f : Bool) : (s.setRegAndFlag x r f).keyValid = s.keyValid := rfl
@[simp] theorem State.setRegAndFlag_keyLatch (x : Nibble) (r : Byte) (f : Bool) : (s.setRegAndFlag x r f).keyLatch = s.keyLatch := rfl
@[simp] theorem State.setRegAndFlag_halted (x : Nibble) (r : Byte) (f : Bool) : (s.setRegAndFlag x r f).halted = s.halted := rfl
@[simp] theorem State.setRegAndFlag_err (x : Nibble) (r : Byte) (f : Bool) : (s.setRegAndFlag x r f).err = s.err := rfl
@[simp] theorem State.setRegAndFlag_outcome (x : Nibble) (r : Byte) (f : Bool) : (s.setRegAndFlag x r f).outcome = s.outcome := rfl
@[simp] theorem State.setRegAndFlag_reply (x : Nibble) (r : Byte) (f : Bool) : (s.setRegAndFlag x r f).reply = s.reply := rfl
@[simp] theorem State.setRegAndFlag_loaded (x : Nibble) (r : Byte) (f : Bool) : (s.setRegAndFlag x r f).loaded = s.loaded := rfl
@[simp] theorem State.setRegAndFlag_draws (x : Nibble) (r : Byte) (f : Bool) : (s.setRegAndFlag x r f).draws = s.draws := rfl
@[simp] theorem State.setRegAndFlag_agenda (x : Nibble) (r : Byte) (f : Bool) : (s.setRegAndFlag x r f).agenda = s.agenda := rfl

/-! #### setBlock -/

@[simp] theorem State.setBlock_mem (bs : List Byte) : (s.setBlock bs).mem = s.mem := rfl
@[simp] theorem State.setBlock_I (bs : List Byte) : (s.setBlock bs).I = s.I := rfl
@[simp] theorem State.setBlock_pc (bs : List Byte) : (s.setBlock bs).pc = s.pc := rfl
@[simp] theorem State.setBlock_stack (bs : List Byte) : (s.setBlock bs).stack = s.stack := rfl
@[simp] theorem State.setBlock_sp (bs : List Byte) : (s.setBlock bs).sp = s.sp := rfl
@[simp] theorem State.setBlock_DT (bs : List Byte) : (s.setBlock bs).DT = s.DT := rfl
@[simp] theorem State.setBlock_ST (bs : List Byte) : (s.setBlock bs).ST = s.ST := rfl
@[simp] theorem State.setBlock_keys (bs : List Byte) : (s.setBlock bs).keys = s.keys := rfl
@[simp] theorem State.setBlock_fb (bs : List Byte) : (s.setBlock bs).fb = s.fb := rfl
@[simp] theorem State.setBlock_dirty (bs : List Byte) : (s.setBlock bs).dirty = s.dirty := rfl
@[simp] theorem State.setBlock_waiting (bs : List Byte) : (s.setBlock bs).waiting = s.waiting := rfl
@[simp] theorem State.setBlock_waitX (bs : List Byte) : (s.setBlock bs).waitX = s.waitX := rfl
@[simp] theorem State.setBlock_keyValid (bs : List Byte) : (s.setBlock bs).keyValid = s.keyValid := rfl
@[simp] theorem State.setBlock_keyLatch (bs : List Byte) : (s.setBlock bs).keyLatch = s.keyLatch := rfl
@[simp] theorem State.setBlock_halted (bs : List Byte) : (s.setBlock bs).halted = s.halted := rfl
@[simp] theorem State.setBlock_err (bs : List Byte) : (s.setBlock bs).err = s.err := rfl
@[simp] theorem State.setBlock_outcome (bs : List Byte) : (s.setBlock bs).outcome = s.outcome := rfl
@[simp] theorem State.setBlock_reply (bs : List Byte) : (s.setBlock bs).reply = s.reply := rfl
@[simp] theorem State.setBlock_loaded (bs : List Byte) : (s.setBlock bs).loaded = s.loaded := rfl
@[simp] theorem State.setBlock_draws (bs : List Byte) : (s.setBlock bs).draws = s.draws := rfl
@[simp] theorem State.setBlock_agenda (bs : List Byte) : (s.setBlock bs).agenda = s.agenda := rfl

/-! #### setCanvas -/

@[simp] theorem State.setCanvas_mem (c : Canvas) : (s.setCanvas c).mem = s.mem := rfl
@[simp] theorem State.setCanvas_V (c : Canvas) : (s.setCanvas c).V = s.V := rfl
@[simp] theorem State.setCanvas_I (c : Canvas) : (s.setCanvas c).I = s.I := rfl
@[simp] theorem State.setCanvas_pc (c : Canvas) : (s.setCanvas c).pc = s.pc := rfl
@[simp] theorem State.setCanvas_stack (c : Canvas) : (s.setCanvas c).stack = s.stack := rfl
@[simp] theorem State.setCanvas_sp (c : Canvas) : (s.setCanvas c).sp = s.sp := rfl
@[simp] theorem State.setCanvas_DT (c : Canvas) : (s.setCanvas c).DT = s.DT := rfl
@[simp] theorem State.setCanvas_ST (c : Canvas) : (s.setCanvas c).ST = s.ST := rfl
@[simp] theorem State.setCanvas_keys (c : Canvas) : (s.setCanvas c).keys = s.keys := rfl
@[simp] theorem State.setCanvas_fb (c : Canvas) : (s.setCanvas c).fb = c.fb := rfl
@[simp] theorem State.setCanvas_dirty (c : Canvas) : (s.setCanvas c).dirty = (s.dirty || c.changed) := rfl
@[simp] theorem State.setCanvas_waiting (c : Canvas) : (s.setCanvas c).waiting = s.waiting := rfl
@[simp] theorem State.setCanvas_waitX (c : Canvas) : (s.setCanvas c).waitX = s.waitX := rfl
@[simp] theorem State.setCanvas_keyValid (c : Canvas) : (s.setCanvas c).keyValid = s.keyValid := rfl
@[simp] theorem State.setCanvas_keyLatch (c : Canvas) : (s.setCanvas c).keyLatch = s.keyLatch := rfl
@[simp] theorem State.setCanvas_halted (c : Canvas) : (s.setCanvas c).halted = s.halted := rfl
@[simp] theorem State.setCanvas_err (c : Canvas) : (s.setCanvas c).err = s.err := rfl
@[simp] theorem State.setCanvas_outcome (c : Canvas) : (s.setCanvas c).outcome = s.outcome := rfl
@[simp] theorem State.setCanvas_reply (c : Canvas) : (s.setCanvas c).reply = s.reply := rfl
@[simp] theorem State.setCanvas_loaded (c : Canvas) : (s.setCanvas c).loaded = s.loaded := rfl
@[simp] theorem State.setCanvas_draws (c : Canvas) : (s.setCanvas c).draws = s.draws := rfl
@[simp] theorem State.setCanvas_agenda (c : Canvas) : (s.setCanvas c).agenda = s.agenda := rfl

/-! #### drawRandom -/

@[simp] theorem State.drawRandom_mem : s.drawRandom.mem = s.mem := rfl
@[simp] theorem State.drawRandom_V : s.drawRandom.V = s.V := rfl
@[simp] theorem State.drawRandom_I : s.drawRandom.I = s.I := rfl
@[simp] theorem State.drawRandom_pc : s.drawRandom.pc = s.pc := rfl
@[simp] theorem State.drawRandom_stack : s.drawRandom.stack = s.stack := rfl
@[simp] theorem State.drawRandom_sp : s.drawRandom.sp = s.sp := rfl
@[simp] theorem State.drawRandom_DT : s.drawRandom.DT = s.DT := rfl
@[simp] theorem State.drawRandom_ST : s.drawRandom.ST = s.ST := rfl
@[simp] theorem State.drawRandom_keys : s.drawRandom.keys = s.keys := rfl
@[simp] theorem State.drawRandom_fb : s.drawRandom.fb = s.fb := rfl
@[simp] theorem State.drawRandom_dirty : s.drawRandom.dirty = s.dirty := rfl
@[simp] theorem State.drawRandom_waiting : s.drawRandom.waiting = s.waiting := rfl
@[simp] theorem State.drawRandom_waitX : s.drawRandom.waitX = s.waitX := rfl
@[simp] theorem State.drawRandom_keyValid : s.drawRandom.keyValid = s.keyValid := rfl
@[simp] theorem State.drawRandom_keyLatch : s.drawRandom.keyLatch = s.keyLatch := rfl
@[simp] theorem State.drawRandom_halted : s.drawRandom.halted = s.halted := rfl
@[simp] theorem State.drawRandom_err : s.drawRandom.err = s.err := rfl
@[simp] theorem State.drawRandom_outcome : s.drawRandom.outcome = s.outcome := rfl
@[simp] theorem State.drawRandom_reply : s.drawRandom.reply = s.reply := rfl
@[simp] theorem State.drawRandom_loaded : s.drawRandom.loaded = s.loaded := rfl
@[simp] theorem State.drawRandom_draws : s.drawRandom.draws = s.draws + 1 := rfl
@[simp] theorem State.drawRandom_agenda : s.drawRandom.agenda = s.agenda := rfl

/-! #### halt -/

@[simp] theorem State.halt_mem (k : ErrorKind) : (s.halt k).mem = s.mem := rfl
@[simp] theorem State.halt_V (k : ErrorKind) : (s.halt k).V = s.V := rfl
@[simp] theorem State.halt_I (k : ErrorKind) : (s.halt k).I = s.I := rfl
@[simp] theorem State.halt_pc (k : ErrorKind) : (s.halt k).pc = s.pc := rfl
@[simp] theorem State.halt_stack (k : ErrorKind) : (s.halt k).stack = s.stack := rfl
@[simp] theorem State.halt_sp (k : ErrorKind) : (s.halt k).sp = s.sp := rfl
@[simp] theorem State.halt_DT (k : ErrorKind) : (s.halt k).DT = s.DT := rfl
@[simp] theorem State.halt_ST (k : ErrorKind) : (s.halt k).ST = s.ST := rfl
@[simp] theorem State.halt_keys (k : ErrorKind) : (s.halt k).keys = s.keys := rfl
@[simp] theorem State.halt_fb (k : ErrorKind) : (s.halt k).fb = s.fb := rfl
@[simp] theorem State.halt_dirty (k : ErrorKind) : (s.halt k).dirty = s.dirty := rfl
@[simp] theorem State.halt_waiting (k : ErrorKind) : (s.halt k).waiting = s.waiting := rfl
@[simp] theorem State.halt_waitX (k : ErrorKind) : (s.halt k).waitX = s.waitX := rfl
@[simp] theorem State.halt_keyValid (k : ErrorKind) : (s.halt k).keyValid = s.keyValid := rfl
@[simp] theorem State.halt_keyLatch (k : ErrorKind) : (s.halt k).keyLatch = s.keyLatch := rfl
@[simp] theorem State.halt_halted (k : ErrorKind) : (s.halt k).halted = true := rfl
@[simp] theorem State.halt_err (k : ErrorKind) : (s.halt k).err = some k := rfl
@[simp] theorem State.halt_outcome (k : ErrorKind) : (s.halt k).outcome = s.outcome := rfl
@[simp] theorem State.halt_reply (k : ErrorKind) : (s.halt k).reply = s.reply := rfl
@[simp] theorem State.halt_loaded (k : ErrorKind) : (s.halt k).loaded = s.loaded := rfl
@[simp] theorem State.halt_draws (k : ErrorKind) : (s.halt k).draws = s.draws := rfl
@[simp] theorem State.halt_agenda (k : ErrorKind) : (s.halt k).agenda = s.agenda := rfl

/-! #### enterWait -/

@[simp] theorem State.enterWait_mem (x : Nibble) : (s.enterWait x).mem = s.mem := rfl
@[simp] theorem State.enterWait_V (x : Nibble) : (s.enterWait x).V = s.V := rfl
@[simp] theorem State.enterWait_I (x : Nibble) : (s.enterWait x).I = s.I := rfl
@[simp] theorem State.enterWait_pc (x : Nibble) : (s.enterWait x).pc = s.pc := rfl
@[simp] theorem State.enterWait_stack (x : Nibble) : (s.enterWait x).stack = s.stack := rfl
@[simp] theorem State.enterWait_sp (x : Nibble) : (s.enterWait x).sp = s.sp := rfl
@[simp] theorem State.enterWait_DT (x : Nibble) : (s.enterWait x).DT = s.DT := rfl
@[simp] theorem State.enterWait_ST (x : Nibble) : (s.enterWait x).ST = s.ST := rfl
@[simp] theorem State.enterWait_keys (x : Nibble) : (s.enterWait x).keys = s.keys := rfl
@[simp] theorem State.enterWait_fb (x : Nibble) : (s.enterWait x).fb = s.fb := rfl
@[simp] theorem State.enterWait_dirty (x : Nibble) : (s.enterWait x).dirty = s.dirty := rfl
@[simp] theorem State.enterWait_waiting (x : Nibble) : (s.enterWait x).waiting = true := rfl
@[simp] theorem State.enterWait_waitX (x : Nibble) : (s.enterWait x).waitX = x := rfl
@[simp] theorem State.enterWait_keyValid (x : Nibble) : (s.enterWait x).keyValid = false := rfl
@[simp] theorem State.enterWait_keyLatch (x : Nibble) : (s.enterWait x).keyLatch = s.keyLatch := rfl
@[simp] theorem State.enterWait_halted (x : Nibble) : (s.enterWait x).halted = s.halted := rfl
@[simp] theorem State.enterWait_err (x : Nibble) : (s.enterWait x).err = s.err := rfl
@[simp] theorem State.enterWait_outcome (x : Nibble) : (s.enterWait x).outcome = some .waiting := rfl
@[simp] theorem State.enterWait_reply (x : Nibble) : (s.enterWait x).reply = s.reply := rfl
@[simp] theorem State.enterWait_loaded (x : Nibble) : (s.enterWait x).loaded = s.loaded := rfl
@[simp] theorem State.enterWait_draws (x : Nibble) : (s.enterWait x).draws = s.draws := rfl
@[simp] theorem State.enterWait_agenda (x : Nibble) : (s.enterWait x).agenda = s.agenda := rfl

/-! #### completeWait -/

@[simp] theorem State.completeWait_mem : s.completeWait.mem = s.mem := rfl
@[simp] theorem State.completeWait_V : s.completeWait.V = (s.setReg s.waitX (zextKey s.keyLatch)).V := rfl
@[simp] theorem State.completeWait_I : s.completeWait.I = s.I := rfl
@[simp] theorem State.completeWait_pc : s.completeWait.pc = s.pc + 2 := rfl
@[simp] theorem State.completeWait_stack : s.completeWait.stack = s.stack := rfl
@[simp] theorem State.completeWait_sp : s.completeWait.sp = s.sp := rfl
@[simp] theorem State.completeWait_DT : s.completeWait.DT = s.DT := rfl
@[simp] theorem State.completeWait_ST : s.completeWait.ST = s.ST := rfl
@[simp] theorem State.completeWait_keys : s.completeWait.keys = s.keys := rfl
@[simp] theorem State.completeWait_fb : s.completeWait.fb = s.fb := rfl
@[simp] theorem State.completeWait_dirty : s.completeWait.dirty = s.dirty := rfl
@[simp] theorem State.completeWait_waiting : s.completeWait.waiting = false := rfl
@[simp] theorem State.completeWait_waitX : s.completeWait.waitX = s.waitX := rfl
@[simp] theorem State.completeWait_keyValid : s.completeWait.keyValid = false := rfl
@[simp] theorem State.completeWait_keyLatch : s.completeWait.keyLatch = s.keyLatch := rfl
@[simp] theorem State.completeWait_halted : s.completeWait.halted = s.halted := rfl
@[simp] theorem State.completeWait_err : s.completeWait.err = s.err := rfl
@[simp] theorem State.completeWait_outcome : s.completeWait.outcome = some .advanced := rfl
@[simp] theorem State.completeWait_reply : s.completeWait.reply = s.reply := rfl
@[simp] theorem State.completeWait_loaded : s.completeWait.loaded = s.loaded := rfl
@[simp] theorem State.completeWait_draws : s.completeWait.draws = s.draws := rfl
@[simp] theorem State.completeWait_agenda : s.completeWait.agenda = s.agenda := rfl

/-! #### tick -/

@[simp] theorem State.tick_mem : s.tick.mem = s.mem := rfl
@[simp] theorem State.tick_V : s.tick.V = s.V := rfl
@[simp] theorem State.tick_I : s.tick.I = s.I := rfl
@[simp] theorem State.tick_pc : s.tick.pc = s.pc := rfl
@[simp] theorem State.tick_stack : s.tick.stack = s.stack := rfl
@[simp] theorem State.tick_sp : s.tick.sp = s.sp := rfl
@[simp] theorem State.tick_DT : s.tick.DT = tickTimer s.DT := rfl
@[simp] theorem State.tick_ST : s.tick.ST = tickTimer s.ST := rfl
@[simp] theorem State.tick_keys : s.tick.keys = s.keys := rfl
@[simp] theorem State.tick_fb : s.tick.fb = s.fb := rfl
@[simp] theorem State.tick_dirty : s.tick.dirty = s.dirty := rfl
@[simp] theorem State.tick_waiting : s.tick.waiting = s.waiting := rfl
@[simp] theorem State.tick_waitX : s.tick.waitX = s.waitX := rfl
@[simp] theorem State.tick_keyValid : s.tick.keyValid = s.keyValid := rfl
@[simp] theorem State.tick_keyLatch : s.tick.keyLatch = s.keyLatch := rfl
@[simp] theorem State.tick_halted : s.tick.halted = s.halted := rfl
@[simp] theorem State.tick_err : s.tick.err = s.err := rfl
@[simp] theorem State.tick_outcome : s.tick.outcome = s.outcome := rfl
@[simp] theorem State.tick_reply : s.tick.reply = none := rfl
@[simp] theorem State.tick_loaded : s.tick.loaded = s.loaded := rfl
@[simp] theorem State.tick_draws : s.tick.draws = s.draws := rfl
@[simp] theorem State.tick_agenda : s.tick.agenda = s.agenda := rfl

/-! #### keyWrite -/

@[simp] theorem State.keyWrite_mem (k : Nibble) (v : Bool) : (s.keyWrite k v).mem = s.mem := rfl
@[simp] theorem State.keyWrite_V (k : Nibble) (v : Bool) : (s.keyWrite k v).V = s.V := rfl
@[simp] theorem State.keyWrite_I (k : Nibble) (v : Bool) : (s.keyWrite k v).I = s.I := rfl
@[simp] theorem State.keyWrite_pc (k : Nibble) (v : Bool) : (s.keyWrite k v).pc = s.pc := rfl
@[simp] theorem State.keyWrite_stack (k : Nibble) (v : Bool) : (s.keyWrite k v).stack = s.stack := rfl
@[simp] theorem State.keyWrite_sp (k : Nibble) (v : Bool) : (s.keyWrite k v).sp = s.sp := rfl
@[simp] theorem State.keyWrite_DT (k : Nibble) (v : Bool) : (s.keyWrite k v).DT = s.DT := rfl
@[simp] theorem State.keyWrite_ST (k : Nibble) (v : Bool) : (s.keyWrite k v).ST = s.ST := rfl
@[simp] theorem State.keyWrite_keys (k : Nibble) (v : Bool) : (s.keyWrite k v).keys = s.keys.set k.toNat v k.isLt := rfl
@[simp] theorem State.keyWrite_fb (k : Nibble) (v : Bool) : (s.keyWrite k v).fb = s.fb := rfl
@[simp] theorem State.keyWrite_dirty (k : Nibble) (v : Bool) : (s.keyWrite k v).dirty = s.dirty := rfl
@[simp] theorem State.keyWrite_waiting (k : Nibble) (v : Bool) : (s.keyWrite k v).waiting = s.waiting := rfl
@[simp] theorem State.keyWrite_waitX (k : Nibble) (v : Bool) : (s.keyWrite k v).waitX = s.waitX := rfl
@[simp] theorem State.keyWrite_keyValid (k : Nibble) (v : Bool) : (s.keyWrite k v).keyValid = (s.keyValid || s.latches k v) := rfl
@[simp] theorem State.keyWrite_keyLatch (k : Nibble) (v : Bool) : (s.keyWrite k v).keyLatch = if s.latches k v then k else s.keyLatch := rfl
@[simp] theorem State.keyWrite_halted (k : Nibble) (v : Bool) : (s.keyWrite k v).halted = s.halted := rfl
@[simp] theorem State.keyWrite_err (k : Nibble) (v : Bool) : (s.keyWrite k v).err = s.err := rfl
@[simp] theorem State.keyWrite_outcome (k : Nibble) (v : Bool) : (s.keyWrite k v).outcome = s.outcome := rfl
@[simp] theorem State.keyWrite_reply (k : Nibble) (v : Bool) : (s.keyWrite k v).reply = none := rfl
@[simp] theorem State.keyWrite_loaded (k : Nibble) (v : Bool) : (s.keyWrite k v).loaded = s.loaded := rfl
@[simp] theorem State.keyWrite_draws (k : Nibble) (v : Bool) : (s.keyWrite k v).draws = s.draws := rfl
@[simp] theorem State.keyWrite_agenda (k : Nibble) (v : Bool) : (s.keyWrite k v).agenda = s.agenda := rfl

/-! #### The agenda is read by the step only -/

@[simp] theorem State.reg_withAgenda (l : List Operation) (x : Nibble) : State.reg { s with agenda := l } x = s.reg x := rfl
@[simp] theorem State.key_withAgenda (l : List Operation) (k : Nibble) : State.key { s with agenda := l } k = s.key k := rfl
@[simp] theorem State.latches_withAgenda (l : List Operation) (k : Nibble) (v : Bool) :
    State.latches k v { s with agenda := l } = s.latches k v := rfl
@[simp] theorem State.loadAdmitted_withAgenda (l : List Operation) :
    State.loadAdmitted { s with agenda := l } = s.loadAdmitted := rfl

/-! #### raise: what no error touches, and the two entries (R216, R217) -/

@[simp] theorem State.raise_mem (k : ErrorKind) : (s.raise k).mem = s.mem := by
  unfold State.raise; split <;> rfl
@[simp] theorem State.raise_V (k : ErrorKind) : (s.raise k).V = s.V := by
  unfold State.raise; split <;> rfl
@[simp] theorem State.raise_I (k : ErrorKind) : (s.raise k).I = s.I := by
  unfold State.raise; split <;> rfl
@[simp] theorem State.raise_stack (k : ErrorKind) : (s.raise k).stack = s.stack := by
  unfold State.raise; split <;> rfl
@[simp] theorem State.raise_sp (k : ErrorKind) : (s.raise k).sp = s.sp := by
  unfold State.raise; split <;> rfl
@[simp] theorem State.raise_DT (k : ErrorKind) : (s.raise k).DT = s.DT := by
  unfold State.raise; split <;> rfl
@[simp] theorem State.raise_ST (k : ErrorKind) : (s.raise k).ST = s.ST := by
  unfold State.raise; split <;> rfl
@[simp] theorem State.raise_keys (k : ErrorKind) : (s.raise k).keys = s.keys := by
  unfold State.raise; split <;> rfl
@[simp] theorem State.raise_fb (k : ErrorKind) : (s.raise k).fb = s.fb := by
  unfold State.raise; split <;> rfl
@[simp] theorem State.raise_dirty (k : ErrorKind) : (s.raise k).dirty = s.dirty := by
  unfold State.raise; split <;> rfl
@[simp] theorem State.raise_waiting (k : ErrorKind) : (s.raise k).waiting = s.waiting := by
  unfold State.raise; split <;> rfl
@[simp] theorem State.raise_waitX (k : ErrorKind) : (s.raise k).waitX = s.waitX := by
  unfold State.raise; split <;> rfl
@[simp] theorem State.raise_keyValid (k : ErrorKind) : (s.raise k).keyValid = s.keyValid := by
  unfold State.raise; split <;> rfl
@[simp] theorem State.raise_keyLatch (k : ErrorKind) : (s.raise k).keyLatch = s.keyLatch := by
  unfold State.raise; split <;> rfl
@[simp] theorem State.raise_reply (k : ErrorKind) : (s.raise k).reply = s.reply := by
  unfold State.raise; split <;> rfl
@[simp] theorem State.raise_loaded (k : ErrorKind) : (s.raise k).loaded = s.loaded := by
  unfold State.raise; split <;> rfl
@[simp] theorem State.raise_draws (k : ErrorKind) : (s.raise k).draws = s.draws := by
  unfold State.raise; split <;> rfl
@[simp] theorem State.raise_agenda (k : ErrorKind) : (s.raise k).agenda = s.agenda := by
  unfold State.raise; split <;> rfl
@[simp] theorem State.raise_outcome (k : ErrorKind) : (s.raise k).outcome = some (.error k) := by
  unfold State.raise; split <;> rfl

@[simp] theorem ErrorKind.isFatal_unknownOpcode : ErrorKind.isFatal .unknownOpcode = false := rfl
@[simp] theorem ErrorKind.isFatal_unsupportedOpcode : ErrorKind.isFatal .unsupportedOpcode = false := rfl
@[simp] theorem ErrorKind.isFatal_stackOverflow : ErrorKind.isFatal .stackOverflow = true := rfl
@[simp] theorem ErrorKind.isFatal_stackUnderflow : ErrorKind.isFatal .stackUnderflow = true := rfl
@[simp] theorem ErrorKind.isFatal_memoryOutOfRange : ErrorKind.isFatal .memoryOutOfRange = true := rfl
@[simp] theorem ErrorKind.isFatal_loadTooLarge : ErrorKind.isFatal .loadTooLarge = true := rfl

/-- A fatal error changes `halted`, `err` and the outcome, nothing else (R216). -/
theorem State.raise_fatal (k : ErrorKind) (h : k.isFatal = true) :
    s.raise k = { s with halted := true, err := some k, outcome := some (.error k) } := by
  simp [State.raise, h, State.halt]

/-- A non-fatal error changes `pc` and the outcome, nothing else (R217). -/
theorem State.raise_nonFatal (k : ErrorKind) (h : k.isFatal = false) :
    s.raise k = { s with pc := s.pc + 2, outcome := some (.error k) } := by
  simp [State.raise, h]

end Sys2Proof.Machine
end

