-- ==== Sys2Proof/Laws/Display.lean ====
section
/-! SUPPORT. Laws of the framebuffer and of one sprite pixel (R151 to R153). -/

namespace Sys2Proof.Machine

/-- A flipped pixel is inverted, every other pixel is as before. -/
theorem Framebuffer.pixel_flip (fb : Framebuffer) (x px : Fin 64) (y py : Fin 32) :
    (fb.flip x y).pixel px py = if px = x ∧ py = y then !(fb.pixel x y) else fb.pixel px py := by
  obtain ⟨x, hx⟩ := x
  obtain ⟨px, hpx⟩ := px
  obtain ⟨y, hy⟩ := y
  obtain ⟨py, hpy⟩ := py
  simp only [Framebuffer.flip, Framebuffer.pixel, Vector.getElem_set, Fin.mk.injEq]
  by_cases h1 : y = py
  · subst h1
    by_cases h2 : x = px
    · subst h2; simp
    · simp [h2, Ne.symm h2]
  · simp [h1, Ne.symm h1]

/-- Two framebuffers with the same pixels are the same. -/
theorem Framebuffer.ext_pixel (a b : Framebuffer) (h : ∀ px py, a.pixel px py = b.pixel px py) : a = b := by
  refine Vector.ext fun y hy => Vector.ext fun x hx => ?_
  exact h ⟨x, hx⟩ ⟨y, hy⟩

/-- A cleared pixel is 0. -/
@[simp] theorem Framebuffer.pixel_clear (px : Fin 64) (py : Fin 32) : Framebuffer.clear.pixel px py = false := by
  simp [Framebuffer.clear, Framebuffer.pixel]

/-- Where a pixel lands is the column and row asked for. -/
theorem onGrid_eq_some (a b : Nat) (p : Fin 64 × Fin 32) :
    onGrid a b = some p ↔ a = p.1.val ∧ b = p.2.val := by
  obtain ⟨⟨px, hpx⟩, ⟨py, hpy⟩⟩ := p
  unfold onGrid
  split
  · simp [Prod.ext_iff, Fin.ext_iff]
  · next h =>
    simp only [false_iff, reduceCtorEq]
    rintro ⟨rfl, rfl⟩
    exact h ⟨hpx, hpy⟩

/-- Everything one sprite pixel can do to the canvas. -/
theorem Canvas.drawPixel_cases (policy : EdgePolicy) (ox oy : Byte) (row : Nat) (b : Byte) (c : Canvas) (col : Nat) :
    (∃ p, spriteBit b col = true ∧ place policy ox oy col row = some p ∧
      c.drawPixel policy ox oy row b col = c.plot p) ∨
    ((spriteBit b col = false ∨ place policy ox oy col row = none) ∧ c.drawPixel policy ox oy row b col = c) := by
  unfold Canvas.drawPixel
  cases hb : spriteBit b col with
  | false => exact Or.inr ⟨Or.inl rfl, by simp⟩
  | true =>
    cases hp : place policy ox oy col row with
    | none => exact Or.inr ⟨Or.inr rfl, by simp⟩
    | some p => exact Or.inl ⟨p, rfl, rfl, by simp⟩

/-- `wrap` always places a pixel (R153). -/
theorem place_wrap_isSome (ox oy : Byte) (col row : Nat) : (place .wrap ox oy col row).isSome = true := by
  have h1 : (ox.toNat + col) % 64 < 64 := Nat.mod_lt _ (by decide)
  have h2 : (oy.toNat + row) % 32 < 32 := Nat.mod_lt _ (by decide)
  simp [place, onGrid, h1, h2]

end Sys2Proof.Machine
end

