-- ==== Sys2Proof/Laws/Memory.lean ====
section
/-! SUPPORT. Laws of memory: a read after a write, and that every memory operation keeps the canonical form. -/

namespace Sys2Proof.Machine

/-- Empty memory is canonical. -/
theorem Memory.wf_nil : Memory.wf [] := by simp [Memory.wf]

/-- Canonical memory, cell by cell: the first address lies below the others. -/
theorem Memory.wf_cons (c : Host.Cell) (m : Memory) :
    Memory.wf (c :: m) ↔
      (∀ d ∈ m, c.1 < d.1) ∧ (c.1 < memSize ∧ c.2 ≠ Memory.unlisted c.1) ∧ Memory.wf m := by
  simp only [Memory.wf, List.map_cons, List.pairwise_cons, List.mem_map, List.mem_cons, forall_eq_or_imp]
  constructor
  · rintro ⟨⟨h1, h2⟩, h3, h4⟩
    exact ⟨fun d hd => h1 _ ⟨d, hd, rfl⟩, h3, h2, h4⟩
  · rintro ⟨h1, h3, h2, h4⟩
    exact ⟨⟨by rintro _ ⟨d, hd, rfl⟩; exact h1 d hd, h2⟩, h3, h4⟩

/-- An address below every cell reads as unlisted. -/
theorem Memory.read_below (m : Memory) (a : Nat) (h : ∀ d ∈ m, a < d.1) : m.read a = Memory.unlisted a := by
  induction m with
  | nil => rfl
  | cons c rest ih =>
    have hc := h c (by simp)
    simp only [Memory.read]
    rw [if_neg (by omega)]
    exact ih fun d hd => h d (by simp [hd])

/-- Reading through a cell put in front. -/
theorem Memory.read_consCell (a a' : Nat) (b : Byte) (m : Memory) (h : ∀ d ∈ m, a < d.1) :
    (Memory.consCell a b m).read a' = if a' = a then b else m.read a' := by
  unfold Memory.consCell
  split
  · next hb =>
    split
    · next ha => subst ha; rw [Memory.read_below m _ h, hb]
    · rfl
  · simp only [Memory.read]
    by_cases ha : a' = a
    · simp [ha]
    · simp [ha, Ne.symm ha]

/-- Read after write: the written byte at its address, every other address as before. -/
theorem Memory.read_write (m : Memory) (a a' : Nat) (b : Byte) (hm : m.wf) :
    (m.write a b).read a' = if a' = a then b else m.read a' := by
  induction m with
  | nil => exact Memory.read_consCell a a' b [] (by simp)
  | cons c rest ih =>
    obtain ⟨hlt, -, hrest⟩ := (Memory.wf_cons c rest).1 hm
    simp only [Memory.write]
    split
    · next h =>
      refine Memory.read_consCell a a' b _ fun d hd => ?_
      rcases List.mem_cons.1 hd with rfl | hd
      · exact h
      · exact Nat.lt_trans h (hlt d hd)
    · split
      · next h =>
        subst h
        rw [Memory.read_consCell _ _ _ _ hlt]
        by_cases ha : a' = c.1
        · simp [ha]
        · simp [ha, Memory.read, Ne.symm ha]
      · simp only [Memory.read, ih hrest]
        by_cases hc : c.1 = a'
        · simp [hc]; omega
        · simp [hc]

/-- A write puts its own address or an old one into a cell, never another. -/
theorem Memory.mem_write (m : Memory) (a : Nat) (b : Byte) (d : Host.Cell) (h : d ∈ m.write a b) :
    d ∈ m ∨ d.1 = a := by
  induction m with
  | nil =>
    simp only [Memory.write, Memory.consCell] at h
    split at h <;> simp_all
  | cons c rest ih =>
    simp only [Memory.write] at h
    split at h
    · simp only [Memory.consCell] at h
      split at h
      · exact Or.inl h
      · rcases List.mem_cons.1 h with rfl | h
        · exact Or.inr rfl
        · exact Or.inl h
    · split at h
      · simp only [Memory.consCell] at h
        split at h
        · exact Or.inl (List.mem_cons_of_mem _ h)
        · rcases List.mem_cons.1 h with rfl | h
          · exact Or.inr rfl
          · exact Or.inl (List.mem_cons_of_mem _ h)
      · rcases List.mem_cons.1 h with rfl | h
        · simp
        · rcases ih h with h | h
          · simp [h]
          · exact Or.inr h

/-- A cell put in front of greater addresses keeps the form. -/
theorem Memory.consCell_wf (a : Nat) (b : Byte) (m : Memory) (hm : m.wf) (ha : a < memSize)
    (h : ∀ d ∈ m, a < d.1) : (Memory.consCell a b m).wf := by
  unfold Memory.consCell
  split
  · exact hm
  · next hb => exact (Memory.wf_cons _ _).2 ⟨h, ⟨ha, hb⟩, hm⟩

/-- A write inside memory keeps the canonical form. -/
theorem Memory.write_wf (m : Memory) (a : Nat) (b : Byte) (hm : m.wf) (ha : a < memSize) : (m.write a b).wf := by
  induction m with
  | nil => exact Memory.consCell_wf a b [] hm ha (by simp)
  | cons c rest ih =>
    obtain ⟨hlt, hc, hrest⟩ := (Memory.wf_cons c rest).1 hm
    simp only [Memory.write]
    split
    · next h =>
      refine Memory.consCell_wf a b _ hm ha fun d hd => ?_
      rcases List.mem_cons.1 hd with rfl | hd
      · exact h
      · exact Nat.lt_trans h (hlt d hd)
    · split
      · next h => subst h; exact Memory.consCell_wf _ b rest hrest ha hlt
      · refine (Memory.wf_cons _ _).2 ⟨fun d hd => ?_, hc, ih hrest⟩
        rcases Memory.mem_write rest a b d hd with hd | hd
        · exact hlt d hd
        · omega

/-- Writing a range inside memory keeps the canonical form. -/
theorem Memory.writeBytes_wf (m : Memory) (a : Nat) (bs : List Byte) (hm : m.wf)
    (h : bs = [] ∨ a + bs.length ≤ memSize) : (m.writeBytes a bs).wf := by
  induction bs generalizing m a with
  | nil => exact hm
  | cons b rest ih =>
    have h' : a + (rest.length + 1) ≤ memSize := by simpa using h
    exact ih (m.write a b) (a + 1) (Memory.write_wf m a b hm (by omega)) (Or.inr (by omega))

/-- Reading after a range was written: byte k of the list at `a + k`, every address outside the range as before. -/
theorem Memory.read_writeBytes (m : Memory) (a a' : Nat) (bs : List Byte) (hm : m.wf)
    (h : bs = [] ∨ a + bs.length ≤ memSize) :
    (m.writeBytes a bs).read a' =
      if h : a ≤ a' ∧ a' < a + bs.length then bs[a' - a]'(by omega) else m.read a' := by
  induction bs generalizing m a with
  | nil =>
    rw [dif_neg (by simp only [List.length_nil]; omega)]
    rfl
  | cons b rest ih =>
    have h' : a + (rest.length + 1) ≤ memSize := by simpa using h
    simp only [Memory.writeBytes]
    rw [ih (m.write a b) (a + 1) (Memory.write_wf m a b hm (by omega)) (Or.inr (by omega)),
      Memory.read_write m a a' b hm]
    by_cases h1 : a + 1 ≤ a' ∧ a' < a + 1 + rest.length
    · rw [dif_pos h1, dif_pos (by simp; omega)]
      have e : a' - a = (a' - (a + 1)) + 1 := by omega
      simp [e]
    · rw [dif_neg h1]
      by_cases h2 : a' = a
      · subst h2
        rw [dif_pos (by simp)]
        simp
      · rw [if_neg h2, dif_neg (by simp; omega)]

/-- A range read is as long as asked. -/
@[simp] theorem Memory.length_readBytes (m : Memory) (a n : Nat) : (m.readBytes a n).length = n := by
  simp [Memory.readBytes]

/-- Byte k of a range read. -/
@[simp] theorem Memory.getElem_readBytes (m : Memory) (a n k : Nat) (h : k < (m.readBytes a n).length) :
    (m.readBytes a n)[k] = m.read (a + k) := by
  simp [Memory.readBytes]

/-- The range check, as arithmetic (R41). -/
theorem inRange_iff (a n : Nat) : inRange a n = true ↔ n = 0 ∨ a + n ≤ 4096 := by
  unfold inRange memSize
  rw [Bool.or_eq_true, beq_iff_eq, decide_eq_true_iff]

/-- Everything a checked range read can answer. -/
theorem State.loadBytes_cases (a n : Nat) (s : State) :
    ((n = 0 ∨ a + n ≤ 4096) ∧ s.loadBytes a n = some (s.mem.readBytes a n)) ∨
    (n ≠ 0 ∧ 4096 < a + n ∧ s.loadBytes a n = none) := by
  unfold State.loadBytes
  split
  · next h => exact Or.inl ⟨(inRange_iff a n).1 h, rfl⟩
  · next h =>
    rw [inRange_iff] at h
    exact Or.inr ⟨by omega, by omega, rfl⟩

/-- Everything a checked range write can answer. -/
theorem State.storeBytes_cases (a : Nat) (bs : List Byte) (s : State) :
    ((bs = [] ∨ a + bs.length ≤ 4096) ∧ s.storeBytes a bs = some { s with mem := s.mem.writeBytes a bs }) ∨
    (bs ≠ [] ∧ 4096 < a + bs.length ∧ s.storeBytes a bs = none) := by
  unfold State.storeBytes
  split
  · next h =>
    have := (inRange_iff a bs.length).1 h
    exact Or.inl ⟨by simpa using this, rfl⟩
  · next h =>
    rw [inRange_iff] at h
    have hne : bs.length ≠ 0 := by omega
    exact Or.inr ⟨by intro e; simp [e] at hne, by omega, rfl⟩

end Sys2Proof.Machine
end

