-- ==== Sys2Proof/Laws/Ops.lean ====
section
/-! SUPPORT. One lemma per shared operation that says everything it can do; proofs cite these instead of unfolding. -/

namespace Sys2Proof.Machine

/-- Everything a push can do (R15). -/
theorem State.push_cases (w : Word) (s : State) :
    (∃ h : s.sp.val < 16, s.push w =
      some { s with stack := s.stack.set s.sp.val w, sp := ⟨s.sp.val + 1, by omega⟩ }) ∨
    (s.sp.val = 16 ∧ s.push w = none) := by
  unfold State.push
  split
  · next h => exact Or.inl ⟨h, rfl⟩
  · next h => exact Or.inr ⟨by omega, rfl⟩

/-- Everything a pop can do (R15). -/
theorem State.pop_cases (s : State) :
    (∃ h : 0 < s.sp.val, s.pop =
      some (s.stack[s.sp.val - 1], { s with sp := ⟨s.sp.val - 1, by omega⟩ })) ∨
    (s.sp.val = 0 ∧ s.pop = none) := by
  unfold State.pop
  split
  · next h => exact Or.inl ⟨h, rfl⟩
  · next h => exact Or.inr ⟨by omega, rfl⟩

/-- Everything the fetch can do (R84). -/
theorem State.fetch_cases (s : State) :
    (s.pc.toNat ≤ 0x0FFE ∧ s.fetch = some [s.mem.read s.pc.toNat, s.mem.read (s.pc.toNat + 1)]) ∨
    (0x0FFE < s.pc.toNat ∧ s.fetch = none) := by
  unfold State.fetch
  rcases s.loadBytes_cases s.pc.toNat 2 with ⟨h, e⟩ | ⟨-, h, e⟩
  · exact Or.inl ⟨by omega, by rw [e]; rfl⟩
  · exact Or.inr ⟨by omega, e⟩

/-- The decoder on the two fetched bytes. -/
theorem decode_pair (hi lo : Byte) :
    decode [hi, lo] = match decodeWord (wordOfBytes hi lo) with
      | some i => .instr i []
      | none => .rejected (.unknownOpcode (wordOfBytes hi lo)) := rfl

/-- Everything a store at `I` can do (R41, R198, R199). -/
theorem storeAtI_cases (bs : List Byte) (s : State) :
    ((bs = [] ∨ s.base + bs.length ≤ 4096) ∧
      storeAtI bs s = { s with mem := s.mem.writeBytes s.base bs, pc := s.pc + 2, outcome := some .advanced }) ∨
    (bs ≠ [] ∧ 4096 < s.base + bs.length ∧ storeAtI bs s = s.raise .memoryOutOfRange) := by
  unfold storeAtI
  rcases s.storeBytes_cases s.base bs with ⟨h, e⟩ | ⟨hne, h, e⟩
  · exact Or.inl ⟨h, by rw [e]; rfl⟩
  · exact Or.inr ⟨hne, h, by rw [e]⟩

/-- A store at `I`, whether it happens or not, touches memory, `pc`, the halt and the outcome only. -/
theorem storeAtI_V (bs : List Byte) (s : State) : (storeAtI bs s).V = s.V := by
  rcases storeAtI_cases bs s with ⟨-, e⟩ | ⟨-, -, e⟩ <;> simp [e]

/-- Everything a draw can do (R152). -/
theorem drawUnder_cases (policy : EdgePolicy) (x y n : Nibble) (s : State) :
    ((n.toNat = 0 ∨ s.base + n.toNat ≤ 4096) ∧ drawUnder policy x y n s =
      (((s.setCanvas (s.canvas.drawSprite policy (s.reg x) (s.reg y) 0 (s.mem.readBytes s.base n.toNat))).setReg VF
        (flagByte (s.canvas.drawSprite policy (s.reg x) (s.reg y) 0 (s.mem.readBytes s.base n.toNat)).collision)).advance)) ∨
    (n.toNat ≠ 0 ∧ 4096 < s.base + n.toNat ∧ drawUnder policy x y n s = s.raise .memoryOutOfRange) := by
  unfold drawUnder
  rcases s.loadBytes_cases s.base n.toNat with ⟨h, e⟩ | ⟨hne, h, e⟩
  · exact Or.inl ⟨h, by rw [e]⟩
  · exact Or.inr ⟨hne, h, by rw [e]⟩

/-- The block `V0..Vx` is x + 1 bytes (R199). -/
@[simp] theorem State.length_block (s : State) (x : Nibble) : (s.block x).length = x.toNat + 1 := by
  have := x.isLt
  simp [State.block]
  omega

/-- Byte k of the block is `V[k]`. -/
theorem State.getElem_block (s : State) (x : Nibble) (k : Nat) (h : k < (s.block x).length) :
    (s.block x)[k] = s.V[k]'(by have := x.isLt; simp at h; omega) := by
  simp [State.block]

/-- A register after a block load: the byte of its number if the list reaches it, else as before (R200). -/
theorem State.reg_setBlock (bs : List Byte) (s : State) (r : Nibble) :
    (s.setBlock bs).reg r = bs.getD r.toNat (s.reg r) := by
  simp [State.setBlock, State.reg]

/-- BCD writes three bytes (R198). -/
@[simp] theorem length_bcdDigits (v : Byte) : (bcdDigits v).length = 3 := rfl

/-- The font is 80 bytes at 0x050; every other unlisted address reads 0x00 (R251, R252). -/
theorem unlisted_outside_font (a : Nat) (h : a < 0x50 ∨ 0xA0 ≤ a) : Memory.unlisted a = 0 := by
  unfold Memory.unlisted
  rw [dif_neg (by omega)]

end Sys2Proof.Machine
end

