-- ==== Sys2Proof/Laws/Compositor.lean ====
section
/-! SUPPORT. What drawing a whole sprite does, said once (R152, R156): `Canvas.drawSprite_covers`, and `drawUnder_covers` for
the whole instruction. -/

namespace Sys2Proof.Machine

/-- Two sprite pixels at different offsets never land on one pixel, under any policy (R156). -/
theorem place_injective (policy : EdgePolicy) (ox oy : Byte) {col row col' row' : Nat} {p : Fin 64 × Fin 32}
    (hc : col < 8) (hr : row < 16) (hc' : col' < 8) (hr' : row' < 16)
    (h : place policy ox oy col row = some p) (h' : place policy ox oy col' row' = some p) : col = col' ∧ row = row' := by
  cases policy <;> simp only [place, onGrid_eq_some] at h h' <;> omega

/-- A sprite pixel at an offset that `D` admits lands on `p`. -/
def landsOn (policy : EdgePolicy) (ox oy : Byte) (D : Nat → Nat → Prop) (p : Fin 64 × Fin 32) : Prop :=
  ∃ row col, row < 16 ∧ col < 8 ∧ D row col ∧ place policy ox oy col row = some p

/-- The offsets may be named another way. -/
theorem landsOn_congr {policy : EdgePolicy} {ox oy : Byte} {D E : Nat → Nat → Prop} (p : Fin 64 × Fin 32)
    (e : ∀ r k, k < 8 → (D r k ↔ E r k)) : landsOn policy ox oy D p ↔ landsOn policy ox oy E p :=
  exists_congr fun r => exists_congr fun k => and_congr_right fun _ => and_congr_right fun hk => and_congr_left fun _ => e r k hk

/-- The canvas is `fb` with exactly the pixels of `S` inverted, and its two flags say what that did. -/
structure Canvas.Inverts (fb : Framebuffer) (S : Fin 64 × Fin 32 → Prop) (c : Canvas) : Prop where
  inside : ∀ p, S p → c.fb.pixel p.1 p.2 = !(fb.pixel p.1 p.2)
  outside : ∀ p, ¬ S p → c.fb.pixel p.1 p.2 = fb.pixel p.1 p.2
  collision : c.collision = true ↔ ∃ p, S p ∧ fb.pixel p.1 p.2 = true
  changed : c.changed = true ↔ ∃ p, S p

/-- The set may be named another way. -/
theorem Canvas.Inverts.congr {fb : Framebuffer} {S T : Fin 64 × Fin 32 → Prop} {c : Canvas} (h : c.Inverts fb S)
    (e : ∀ p, S p ↔ T p) : c.Inverts fb T :=
  (funext fun p => propext (e p) : S = T) ▸ h

/-- Plotting one pixel more. -/
theorem Canvas.Inverts.plot {fb : Framebuffer} {S : Fin 64 × Fin 32 → Prop} {c : Canvas} (h : c.Inverts fb S)
    (q : Fin 64 × Fin 32) (hq : ¬ S q) : (c.plot q).Inverts fb (fun p => S p ∨ p = q) := by
  have other : ∀ p, p ≠ q → ¬(p.1 = q.1 ∧ p.2 = q.2) := fun p hp e => hp (Prod.ext e.1 e.2)
  refine ⟨fun p hp => ?_, fun p hp => ?_, ?_, by simp [Canvas.plot]⟩
  · simp only [Canvas.plot, Framebuffer.pixel_flip]
    by_cases e : p = q
    · subst e; simp [h.outside p hq]
    · simp [other p e, h.inside p (hp.resolve_right e)]
  · simp only [not_or] at hp
    simp [Canvas.plot, Framebuffer.pixel_flip, other p hp.2, h.outside p hp.1]
  · simp only [Canvas.plot, Bool.or_eq_true, h.collision, h.outside q hq]
    constructor
    · rintro (⟨p, hp, e⟩ | e)
      exacts [⟨p, .inl hp, e⟩, ⟨q, .inr rfl, e⟩]
    · rintro ⟨p, hp | rfl, e⟩
      exacts [.inl ⟨p, hp, e⟩, .inr e]

/-- One sprite pixel at a new offset. -/
theorem Canvas.Inverts.drawPixel {fb : Framebuffer} {c : Canvas} {policy : EdgePolicy} {ox oy : Byte}
    {D : Nat → Nat → Prop} (row : Nat) (b : Byte) (col : Nat) (hr : row < 16) (hc : col < 8) (hD : ¬ D row col)
    (h : c.Inverts fb (landsOn policy ox oy D)) :
    (c.drawPixel policy ox oy row b col).Inverts fb
      (landsOn policy ox oy fun r k => D r k ∨ (r = row ∧ k = col ∧ spriteBit b k = true)) := by
  rcases Canvas.drawPixel_cases policy ox oy row b c col with ⟨q, hb, hp, e⟩ | ⟨hn, e⟩ <;> rw [e]
  · have hq : ¬ landsOn policy ox oy D q := by
      rintro ⟨r, k, hr', hk', hd, hp'⟩
      obtain ⟨rfl, rfl⟩ := place_injective policy ox oy hk' hr' hc hr hp' hp
      exact hD hd
    refine (h.plot q hq).congr fun p => ⟨?_, ?_⟩
    · rintro (⟨r, k, hr', hk', hd, hp'⟩ | rfl)
      exacts [⟨r, k, hr', hk', .inl hd, hp'⟩, ⟨row, col, hr, hc, .inr ⟨rfl, rfl, hb⟩, hp⟩]
    · rintro ⟨r, k, hr', hk', hd | ⟨rfl, rfl, -⟩, hp'⟩
      exacts [.inl ⟨r, k, hr', hk', hd, hp'⟩, .inr (Option.some.inj (hp.symm.trans hp')).symm]
  · refine h.congr fun p => ⟨fun ⟨r, k, hr', hk', hd, hp'⟩ => ⟨r, k, hr', hk', .inl hd, hp'⟩, ?_⟩
    rintro ⟨r, k, hr', hk', hd | ⟨rfl, rfl, hb⟩, hp'⟩
    · exact ⟨r, k, hr', hk', hd, hp'⟩
    · simp [hb, hp'] at hn

/-- The first `n` pixels of a new row. -/
theorem Canvas.Inverts.drawCols {fb : Framebuffer} {c : Canvas} {policy : EdgePolicy} {ox oy : Byte}
    {D : Nat → Nat → Prop} (row : Nat) (b : Byte) (hr : row < 16) (hD : ∀ k, ¬ D row k)
    (h : c.Inverts fb (landsOn policy ox oy D)) (n : Nat) (hn : n ≤ 8) :
    ((List.range n).foldl (Canvas.drawPixel policy ox oy row b) c).Inverts fb
      (landsOn policy ox oy fun r k => D r k ∨ (r = row ∧ k < n ∧ spriteBit b k = true)) := by
  induction n with
  | zero => exact h.congr fun p => by simp [landsOn]
  | succ n ih =>
    rw [List.range_succ, List.foldl_append]
    refine ((ih (by omega)).drawPixel row b n hr (by omega) (by simp [hD])).congr fun p => landsOn_congr p fun r k _ => ?_
    rw [or_assoc, ← and_or_left, ← or_and_right, Nat.lt_succ_iff_lt_or_eq]

/-- A new row of the sprite. -/
theorem Canvas.Inverts.drawRow {fb : Framebuffer} {c : Canvas} {policy : EdgePolicy} {ox oy : Byte}
    {D : Nat → Nat → Prop} (row : Nat) (b : Byte) (hr : row < 16) (hD : ∀ k, ¬ D row k)
    (h : c.Inverts fb (landsOn policy ox oy D)) :
    (c.drawRow policy ox oy row b).Inverts fb
      (landsOn policy ox oy fun r k => D r k ∨ (r = row ∧ spriteBit b k = true)) := by
  refine (h.drawCols row b hr hD 8 (Nat.le_refl 8)).congr fun p => landsOn_congr p fun r k hk => ?_
  simp [hk]

/-- The rows of a sprite from `row` on. -/
theorem Canvas.Inverts.drawSprite {fb : Framebuffer} {policy : EdgePolicy} {ox oy : Byte} (bytes : List Byte) :
    ∀ (D : Nat → Nat → Prop) (c : Canvas) (row : Nat), row + bytes.length ≤ 16 → (∀ r k, row ≤ r → ¬ D r k) →
      c.Inverts fb (landsOn policy ox oy D) →
      (c.drawSprite policy ox oy row bytes).Inverts fb (landsOn policy ox oy fun r k =>
        D r k ∨ (row ≤ r ∧ ∃ h : r - row < bytes.length, spriteBit bytes[r - row] k = true)) := by
  induction bytes with
  | nil => intro D c row _ _ h; exact h.congr fun p => by simp
  | cons b rest ih =>
    intro D c row hl hD h
    simp only [List.length_cons] at hl
    have h1 := h.drawRow row b (by omega) (fun k => hD row k (Nat.le_refl _))
    refine (ih _ _ (row + 1) (by omega) ?_ h1).congr fun p => ?_
    · rintro r k hr (hd | ⟨rfl, -⟩)
      exacts [hD r k (by omega) hd, by omega]
    · refine landsOn_congr p fun r k _ => ?_
      rw [or_assoc]
      refine or_congr_right ⟨?_, ?_⟩
      · rintro (⟨rfl, e⟩ | ⟨hr, hh, e⟩)
        · exact ⟨Nat.le_refl _, by simp, by simpa using e⟩
        · have e1 : r - row = (r - (row + 1)) + 1 := by omega
          exact ⟨by omega, by simp only [List.length_cons]; omega, by simpa only [e1, List.getElem_cons_succ] using e⟩
      · rintro ⟨hr, hh, e⟩
        rcases Nat.eq_or_lt_of_le hr with rfl | hlt
        · exact .inl ⟨rfl, by simpa using e⟩
        · have e1 : r - row = (r - (row + 1)) + 1 := by omega
          simp only [e1, List.getElem_cons_succ] at e
          simp only [List.length_cons] at hh
          exact .inr ⟨by omega, by omega, e⟩

/-- Everything drawing a sprite does to the canvas a DRW starts from: exactly the covered pixels are inverted. -/
theorem Canvas.drawSprite_covers (policy : EdgePolicy) (ox oy : Byte) (bytes : List Byte) (hl : bytes.length ≤ 15) (s : State) :
    (s.canvas.drawSprite policy ox oy 0 bytes).Inverts s.fb fun p => spriteCovers policy ox oy bytes p.1 p.2 := by
  have h0 : s.canvas.Inverts s.fb (landsOn policy ox oy fun _ _ => False) := by
    constructor <;> simp [landsOn, State.canvas]
  refine (Canvas.Inverts.drawSprite bytes _ _ 0 (by omega) (by simp) h0).congr fun p => ⟨?_, ?_⟩
  · rintro ⟨r, k, hr, hk, h | ⟨-, hh, e⟩, hp⟩
    exacts [h.elim, ⟨r, k, hh, hk, e, hp⟩]
  · rintro ⟨r, k, hh, hk, e, hp⟩
    exact ⟨r, k, by omega, hk, .inr ⟨by omega, hh, e⟩, hp⟩

/-- Everything a DRW does whose sprite lies inside memory (R152): the canvas it leaves, then `VF`, then the advance. -/
theorem drawUnder_covers (policy : EdgePolicy) (x y n : Nibble) (s : State) (hn : n.toNat = 0 ∨ s.base + n.toNat ≤ 4096) :
    ∃ c : Canvas, drawUnder policy x y n s = ((s.setCanvas c).setReg VF (flagByte c.collision)).advance ∧
      c.Inverts s.fb fun p => spriteCovers policy (s.reg x) (s.reg y) (s.mem.readBytes s.base n.toNat) p.1 p.2 := by
  rcases drawUnder_cases policy x y n s with ⟨-, e⟩ | ⟨hz, hlt, -⟩
  · have hl : (s.mem.readBytes s.base n.toNat).length ≤ 15 := by
      have := n.isLt
      simp only [Memory.readBytes, List.length_map, List.length_range]
      omega
    exact ⟨_, e, Canvas.drawSprite_covers policy _ _ _ hl s⟩
  · omega

/-- A collision is a change (R156 e). -/
theorem Canvas.Inverts.changed_of_collision {fb : Framebuffer} {S : Fin 64 × Fin 32 → Prop} {c : Canvas} (h : c.Inverts fb S)
    (hc : c.collision = true) : c.changed = true :=
  have ⟨p, hp, _⟩ := h.collision.1 hc
  h.changed.2 ⟨p, hp⟩

end Sys2Proof.Machine
end

