-- ==== Sys2Proof/Laws/Decode.lean ====
section
/-! SUPPORT. The bits of a word laid out by each format (R61), and that every field of it reads back. -/

namespace Sys2Proof

/-- Format NNN, bit by bit. -/
theorem bits_layoutNNN (c : Nibble) (nnn : Addr) (i : Nat) :
    (layoutNNN c nnn).getLsbD i = if i < 12 then nnn.getLsbD i else c.getLsbD (i - 12) := by
  show (c ++ nnn).getLsbD i = _
  rw [BitVec.getLsbD_append]

/-- Formats XNN and XK, bit by bit. -/
theorem bits_layoutXNN (c x : Nibble) (nn : Byte) (i : Nat) :
    (layoutXNN c x nn).getLsbD i =
      if i < 8 then nn.getLsbD i else if i < 12 then x.getLsbD (i - 8) else c.getLsbD (i - 12) := by
  show (c ++ x ++ nn).getLsbD i = _
  rw [BitVec.getLsbD_append, BitVec.getLsbD_append]
  split
  · rfl
  · have e : i - 8 - 4 = i - 12 := by omega
    have e2 : (i - 8 < 4) ↔ i < 12 := by omega
    simp only [e, e2]

/-- Formats XY and XYN, bit by bit. -/
theorem bits_layoutXYN (c x y n : Nibble) (i : Nat) :
    (layoutXYN c x y n).getLsbD i =
      if i < 4 then n.getLsbD i else if i < 8 then y.getLsbD (i - 4)
      else if i < 12 then x.getLsbD (i - 8) else c.getLsbD (i - 12) := by
  show (c ++ x ++ y ++ n).getLsbD i = _
  rw [BitVec.getLsbD_append, BitVec.getLsbD_append, BitVec.getLsbD_append]
  have e : i - 4 - 4 = i - 8 := by omega
  have e' : i - 8 - 4 = i - 12 := by omega
  split
  · rfl
  · have e2 : (i - 4 < 4) ↔ i < 8 := by omega
    have e3 : (i - 8 < 4) ↔ i < 12 := by omega
    simp only [e, e', e2, e3]


@[simp] theorem fieldClass_layoutNNN (c : Nibble) (nnn : Addr) : fieldClass (layoutNNN c nnn) = c := by
  refine BitVec.eq_of_getLsbD_eq fun i hi => ?_
  rw [fieldClass, BitVec.getLsbD_extractLsb', bits_layoutNNN, if_neg (by omega)]
  simp [hi]

@[simp] theorem fieldNNN_layoutNNN (c : Nibble) (nnn : Addr) : fieldNNN (layoutNNN c nnn) = nnn := by
  refine BitVec.eq_of_getLsbD_eq fun i hi => ?_
  rw [fieldNNN, BitVec.getLsbD_extractLsb', bits_layoutNNN, if_pos (by omega)]
  simp [hi]

@[simp] theorem fieldClass_layoutXNN (c x : Nibble) (nn : Byte) : fieldClass (layoutXNN c x nn) = c := by
  refine BitVec.eq_of_getLsbD_eq fun i hi => ?_
  rw [fieldClass, BitVec.getLsbD_extractLsb', bits_layoutXNN, if_neg (by omega), if_neg (by omega)]
  simp [hi]

@[simp] theorem fieldX_layoutXNN (c x : Nibble) (nn : Byte) : fieldX (layoutXNN c x nn) = x := by
  refine BitVec.eq_of_getLsbD_eq fun i hi => ?_
  rw [fieldX, BitVec.getLsbD_extractLsb', bits_layoutXNN, if_neg (by omega), if_pos (by omega)]
  simp [hi]

@[simp] theorem fieldNN_layoutXNN (c x : Nibble) (nn : Byte) : fieldNN (layoutXNN c x nn) = nn := by
  refine BitVec.eq_of_getLsbD_eq fun i hi => ?_
  rw [fieldNN, BitVec.getLsbD_extractLsb', bits_layoutXNN, if_pos (by omega)]
  simp [hi]

@[simp] theorem fieldClass_layoutXYN (c x y n : Nibble) : fieldClass (layoutXYN c x y n) = c := by
  refine BitVec.eq_of_getLsbD_eq fun i hi => ?_
  rw [fieldClass, BitVec.getLsbD_extractLsb', bits_layoutXYN, if_neg (by omega), if_neg (by omega), if_neg (by omega)]
  simp [hi]

@[simp] theorem fieldX_layoutXYN (c x y n : Nibble) : fieldX (layoutXYN c x y n) = x := by
  refine BitVec.eq_of_getLsbD_eq fun i hi => ?_
  rw [fieldX, BitVec.getLsbD_extractLsb', bits_layoutXYN, if_neg (by omega), if_neg (by omega), if_pos (by omega)]
  simp [hi]

@[simp] theorem fieldY_layoutXYN (c x y n : Nibble) : fieldY (layoutXYN c x y n) = y := by
  refine BitVec.eq_of_getLsbD_eq fun i hi => ?_
  rw [fieldY, BitVec.getLsbD_extractLsb', bits_layoutXYN, if_neg (by omega), if_pos (by omega)]
  simp [hi]

@[simp] theorem fieldN_layoutXYN (c x y n : Nibble) : fieldN (layoutXYN c x y n) = n := by
  refine BitVec.eq_of_getLsbD_eq fun i hi => ?_
  rw [fieldN, BitVec.getLsbD_extractLsb', bits_layoutXYN, if_pos (by omega)]
  simp [hi]

/-- The two bytes of a word, put together again. -/
@[simp] theorem wordOfBytes_bytesOfWord (w : Word) : wordOfBytes (w.extractLsb' 8 8) (w.extractLsb' 0 8) = w := by
  refine BitVec.eq_of_getLsbD_eq fun i hi => ?_
  show (w.extractLsb' 8 8 ++ w.extractLsb' 0 8).getLsbD i = _
  rw [BitVec.getLsbD_append]
  split
  · next h => simp [h]
  · next h =>
    have e : 8 + (i - 8) = i := by omega
    simp [e, show i - 8 < 8 by omega]

/-- The decoder on the bytes of a word is the decoder on the word. -/
theorem decode_bytesOfWord (w : Word) (rest : List Byte) :
    decode (bytesOfWord w ++ rest) = match decodeWord w with
      | some i => .instr i rest
      | none => .rejected (.unknownOpcode w) := by
  cases h : decodeWord w <;>
    simp [bytesOfWord, decode, wordOfBytes_bytesOfWord, h]

/-- A row of sixteen bits: the decoder reads the word the bits are. -/
theorem decodeTableWord_16 (w : Nat) (h : w < 65536) : decodeTableWord 16 w = decodeWord (BitVec.ofNat 16 w) := by
  have e : w % 2 ^ 16 = w := Nat.mod_eq_of_lt h
  have d := decode_bytesOfWord (BitVec.ofNat 16 w) []
  rw [List.append_nil] at d
  simp only [decodeTableWord, tableBytes, e, d]
  cases decodeWord (BitVec.ofNat 16 w) <;> rfl

end Sys2Proof
end

