-- ==== Sys2Proof/Laws/Operands.lean ====
section
/-! SUPPORT. The operand values and the arithmetic of R139 as the bit-vector operations they are. -/

namespace Sys2Proof.Machine

theorem zextAddr_eq_ofNat (nnn : Addr) : zextAddr nnn = BitVec.ofNat 16 nnn.toNat := by
  simp [zextAddr]

@[simp] theorem toNat_zextAddr (nnn : Addr) : (zextAddr nnn).toNat = nnn.toNat := by
  have := nnn.isLt
  simp only [zextAddr, BitVec.toNat_setWidth]
  omega

@[simp] theorem toNat_zextByte (b : Byte) : (zextByte b).toNat = b.toNat := by
  have := b.isLt
  simp only [zextByte, BitVec.toNat_setWidth]
  omega

@[simp] theorem toNat_zextKey (k : Nibble) : (zextKey k).toNat = k.toNat := by
  have := k.isLt
  simp only [zextKey, BitVec.toNat_setWidth]
  omega

/-- The key a register value selects is the value modulo 16 (R170). -/
@[simp] theorem toNat_keyIndex (b : Byte) : (keyIndex b).toNat = b.toNat % 16 := by
  simp [keyIndex]

/-- The unreduced sum fits 16 bits: at most 0x10FE (R104). -/
@[simp] theorem toNat_offsetTarget (nnn : Addr) (v0 : Byte) :
    (offsetTarget nnn v0).toNat = nnn.toNat + v0.toNat := by
  have := nnn.isLt
  have := v0.isLt
  simp only [offsetTarget, BitVec.toNat_add, toNat_zextAddr, toNat_zextByte]
  omega

/-- The glyph address fits 16 bits: at most 0x054B (R197). -/
@[simp] theorem toNat_glyphAddr (d : Byte) : (glyphAddr d).toNat = 0x50 + 5 * d.toNat := by
  have := d.isLt
  have e5 : BitVec.toNat (5 : Word) = 5 := rfl
  have e80 : BitVec.toNat (0x0050 : Word) = 0x50 := rfl
  simp only [glyphAddr, BitVec.toNat_add, BitVec.toNat_mul, toNat_zextByte, e5, e80]
  omega

theorem addResult_eq (a b : Byte) : addResult a b = a + b := by
  refine BitVec.eq_of_toNat_eq ?_
  simp [addResult]

theorem subResult_eq (a b : Byte) : subResult a b = a - b := by
  refine BitVec.eq_of_toNat_eq ?_
  simp only [subResult, BitVec.toNat_ofNat, BitVec.toNat_sub]
  omega

theorem shrResult_eq (a : Byte) : shrResult a = a >>> 1 := by revert a; decide

theorem shlResult_eq (a : Byte) : shlResult a = a <<< 1 := by revert a; decide

theorem flagByte_shrOut (a : Byte) : flagByte (shrOut a) = a &&& 1 := by revert a; decide

theorem flagByte_shlOut (a : Byte) : flagByte (shlOut a) = a >>> 7 := by revert a; decide

end Sys2Proof.Machine
end

