-- ==== Sys2Proof/Laws/PerInstr.lean ====
section
/-! SUPPORT. A family of statements about the instructions as syntax, one lemma per constructor: the encoder's word lies in
the instruction's own row of the opcode map (R73), whatever the operands are. -/

namespace Sys2Proof.Laws.EncodedInItsRow

/-- The word of the instruction, masked by its row of R73, is the row's pattern. -/
def Statement (i : Instr) : Prop := encodeWord i &&& (opcodeRow i).mask = (opcodeRow i).pattern

/-- Format NNN under the mask of its class. -/
theorem layoutNNN_row (c : Nibble) (nnn : Addr) : layoutNNN c nnn &&& 0xF000#16 = layoutNNN c 0 := by
  refine BitVec.eq_of_getLsbD_eq fun i hi => ?_
  rw [BitVec.getLsbD_and, bits_layoutNNN, bits_layoutNNN]
  interval_cases i <;> simp

/-- Format XNN under the mask of its class. -/
theorem layoutXNN_row (c x : Nibble) (nn : Byte) : layoutXNN c x nn &&& 0xF000#16 = layoutXNN c 0 0 := by
  refine BitVec.eq_of_getLsbD_eq fun i hi => ?_
  rw [BitVec.getLsbD_and, bits_layoutXNN, bits_layoutXNN]
  interval_cases i <;> simp

/-- Format XK under the mask that leaves x free. -/
theorem layoutXK_row (c x : Nibble) (nn : Byte) : layoutXNN c x nn &&& 0xF0FF#16 = layoutXNN c 0 nn := by
  refine BitVec.eq_of_getLsbD_eq fun i hi => ?_
  rw [BitVec.getLsbD_and, bits_layoutXNN, bits_layoutXNN]
  interval_cases i <;> simp

/-- Format XY under the mask that leaves x and y free. -/
theorem layoutXY_row (c x y n : Nibble) : layoutXYN c x y n &&& 0xF00F#16 = layoutXYN c 0 0 n := by
  refine BitVec.eq_of_getLsbD_eq fun i hi => ?_
  rw [BitVec.getLsbD_and, bits_layoutXYN, bits_layoutXYN]
  interval_cases i <;> simp

/-- Format XYN under the mask of its class. -/
theorem layoutXYN_row (c x y n : Nibble) : layoutXYN c x y n &&& 0xF000#16 = layoutXYN c 0 0 0 := by
  refine BitVec.eq_of_getLsbD_eq fun i hi => ?_
  rw [BitVec.getLsbD_and, bits_layoutXYN, bits_layoutXYN]
  interval_cases i <;> simp

theorem cls : Statement .cls := by unfold Statement; decide
theorem ret : Statement .ret := by unfold Statement; decide
theorem sys (nnn : Addr) : Statement (.sys nnn) := layoutNNN_row _ _ |>.trans rfl
theorem jp (nnn : Addr) : Statement (.jp nnn) := layoutNNN_row _ _ |>.trans rfl
theorem call (nnn : Addr) : Statement (.call nnn) := layoutNNN_row _ _ |>.trans rfl
theorem seImm (x : Nibble) (nn : Byte) : Statement (.seImm x nn) := layoutXNN_row _ _ _ |>.trans rfl
theorem sneImm (x : Nibble) (nn : Byte) : Statement (.sneImm x nn) := layoutXNN_row _ _ _ |>.trans rfl
theorem seReg (x y : Nibble) : Statement (.seReg x y) := layoutXY_row _ _ _ _ |>.trans rfl
theorem ldImm (x : Nibble) (nn : Byte) : Statement (.ldImm x nn) := layoutXNN_row _ _ _ |>.trans rfl
theorem addImm (x : Nibble) (nn : Byte) : Statement (.addImm x nn) := layoutXNN_row _ _ _ |>.trans rfl
theorem ldReg (x y : Nibble) : Statement (.ldReg x y) := layoutXY_row _ _ _ _ |>.trans rfl
theorem or (x y : Nibble) : Statement (.or x y) := layoutXY_row _ _ _ _ |>.trans rfl
theorem and (x y : Nibble) : Statement (.and x y) := layoutXY_row _ _ _ _ |>.trans rfl
theorem xor (x y : Nibble) : Statement (.xor x y) := layoutXY_row _ _ _ _ |>.trans rfl
theorem addReg (x y : Nibble) : Statement (.addReg x y) := layoutXY_row _ _ _ _ |>.trans rfl
theorem sub (x y : Nibble) : Statement (.sub x y) := layoutXY_row _ _ _ _ |>.trans rfl
theorem shr (x y : Nibble) : Statement (.shr x y) := layoutXY_row _ _ _ _ |>.trans rfl
theorem shl (x y : Nibble) : Statement (.shl x y) := layoutXY_row _ _ _ _ |>.trans rfl
theorem sneReg (x y : Nibble) : Statement (.sneReg x y) := layoutXY_row _ _ _ _ |>.trans rfl
theorem ldI (nnn : Addr) : Statement (.ldI nnn) := layoutNNN_row _ _ |>.trans rfl
theorem jpV0 (nnn : Addr) : Statement (.jpV0 nnn) := layoutNNN_row _ _ |>.trans rfl
theorem rnd (x : Nibble) (nn : Byte) : Statement (.rnd x nn) := layoutXNN_row _ _ _ |>.trans rfl
theorem drw (x y n : Nibble) : Statement (.drw x y n) := layoutXYN_row _ _ _ _ |>.trans rfl
theorem skp (x : Nibble) : Statement (.skp x) := layoutXK_row _ _ _ |>.trans rfl
theorem sknp (x : Nibble) : Statement (.sknp x) := layoutXK_row _ _ _ |>.trans rfl
theorem ldVxDt (x : Nibble) : Statement (.ldVxDt x) := layoutXK_row _ _ _ |>.trans rfl
theorem ldVxK (x : Nibble) : Statement (.ldVxK x) := layoutXK_row _ _ _ |>.trans rfl
theorem ldDtVx (x : Nibble) : Statement (.ldDtVx x) := layoutXK_row _ _ _ |>.trans rfl
theorem ldStVx (x : Nibble) : Statement (.ldStVx x) := layoutXK_row _ _ _ |>.trans rfl
theorem addI (x : Nibble) : Statement (.addI x) := layoutXK_row _ _ _ |>.trans rfl
theorem ldF (x : Nibble) : Statement (.ldF x) := layoutXK_row _ _ _ |>.trans rfl
theorem bcd (x : Nibble) : Statement (.bcd x) := layoutXK_row _ _ _ |>.trans rfl
theorem stor (x : Nibble) : Statement (.stor x) := layoutXK_row _ _ _ |>.trans rfl
theorem load (x : Nibble) : Statement (.load x) := layoutXK_row _ _ _ |>.trans rfl

end Sys2Proof.Laws.EncodedInItsRow
end

