-- ==== Sys2Proof/Laws/Step.lean ====
section
/-! SUPPORT. What a STEP and a step can do: the inversion lemmas every invariant proof starts from. -/

namespace Sys2Proof.Machine

/-- The two fetched bytes decode as their word does. -/
theorem runInstruction_cases (s : State) :
    (0x0FFE < s.pc.toNat ∧ runInstruction s = .next (s.raise .memoryOutOfRange)) ∨
    (s.pc.toNat ≤ 0x0FFE ∧ ∃ i, decodeWord s.wordAtPc = some i ∧ runInstruction s = exec i s) ∨
    (s.pc.toNat ≤ 0x0FFE ∧ decodeWord s.wordAtPc = none ∧ runInstruction s = .next (s.raise .unknownOpcode)) := by
  unfold runInstruction
  rcases s.fetch_cases with ⟨h, e⟩ | ⟨h, e⟩
  · right
    rw [e]
    simp only [decode_pair]
    cases hd : decodeWord s.wordAtPc with
    | some i =>
      left
      refine ⟨h, i, rfl, ?_⟩
      simp only [State.wordAtPc] at hd
      simp [hd]
    | none =>
      right
      refine ⟨h, rfl, ?_⟩
      simp only [State.wordAtPc] at hd
      simp [hd]
  · exact Or.inl ⟨h, by rw [e]⟩

/-- Everything a STEP can do (R82 to R87). -/
theorem cycle_cases (s : State) :
    (s.halted = true ∧ cycle s = .next { s with outcome := s.err.map .error }) ∨
    (s.isWaiting ∧ s.keyValid = true ∧ cycle s = .next s.completeWait) ∨
    (s.isWaiting ∧ s.keyValid = false ∧ cycle s = .next { s with outcome := some .waiting }) ∨
    (s.isRunning ∧ cycle s = runInstruction s) := by
  unfold cycle State.isWaiting State.isRunning
  cases s.halted <;> cases s.waiting <;> cases s.keyValid <;> simp

/-- Everything a step can do: a STEP, or the operation at the head of the agenda (R81). -/
theorem step_cases (s : State) :
    (s.agenda = [] ∧ step s = cycle s) ∨
    (∃ op rest, s.agenda = op :: rest ∧ step s = perform op { s with agenda := rest }) := by
  unfold step
  split
  · next h => exact Or.inl ⟨h, rfl⟩
  · next op rest h => exact Or.inr ⟨op, rest, h, rfl⟩

/-- A STEP does the same whether the agenda is empty or names it (log 26). -/
theorem State.performsStep.step_eq {s u : State} (h : s.performsStep u) : step s = cycle u := by
  unfold step
  rcases h with ⟨ha, rfl⟩ | ⟨rest, ha, rfl⟩ <;> rw [ha]
  rfl

/-- With an empty agenda the STEP is performed on the state itself. -/
theorem State.performsStep_self (s : State) (h : s.agenda = []) : s.performsStep s := Or.inl ⟨h, rfl⟩

/-- A Halted STEP that knows its kind (R82). -/
theorem cycle_halted (s : State) (k : ErrorKind) (hh : s.halted = true) (he : s.err = some k) :
    cycle s = .next { s with outcome := some (.error k) } := by
  simp [cycle, hh, he]

/-- A Running STEP fetches (R84). -/
theorem cycle_running (s : State) (h : s.isRunning) : cycle s = runInstruction s := by
  simp [cycle, h.1, h.2]

/-- Everything a LOAD can do (R253). -/
theorem State.loadProgram_cases (prog : List Byte) (s : State) :
    (s.loadAdmitted = true ∧ progMax < prog.length ∧ s.loadProgram prog =
      .next { s.halt .loadTooLarge with loaded := true, reply := some (.loadError .loadTooLarge) }) ∨
    (s.loadAdmitted = true ∧ prog.length ≤ progMax ∧ s.loadProgram prog =
      .next { s with mem := s.mem.writeBytes progBase prog, loaded := true, reply := some .loadOk }) ∨
    (s.loadAdmitted = false ∧ s.loadProgram prog = .refused .loadOutsideBoot) := by
  unfold State.loadProgram
  split
  · next h =>
    split
    · next hl => exact Or.inl ⟨h, hl, rfl⟩
    · next hl => exact Or.inr (Or.inl ⟨h, by omega, rfl⟩)
  · next h => exact Or.inr (Or.inr ⟨by simpa using h, rfl⟩)

end Sys2Proof.Machine
end

