-- ==== Sys2Proof/Tests/Slice0.lean ====
section
/-! SUPPORT. Tests of one step each, expected values from spec/95_test_vectors.md and spec/30_encoding.md; a witness for every
statement of Certificates/Slice0/Obligations.lean that has hypotheses. -/

namespace Sys2Proof.Tests.Slice0

open Sys2Proof Sys2Proof.Machine

/-! ### Small states -/

/-- `s` with the given registers. -/
def withRegs (rs : List (Nibble × Byte)) (s : State) : State := rs.foldl (fun t p => t.setReg p.1 p.2) s

/-- `s` with the given bytes from address `a` upward. -/
def withBytes (a : Nat) (bs : List Byte) (s : State) : State := { s with mem := s.mem.writeBytes a bs }

/-- The state after RESET with the given registers. -/
def fresh (rs : List (Nibble × Byte)) : State := withRegs rs State.reset

/-- The state after RESET with `sp` and every stack slot set. -/
def stacked (sp : Fin 17) (slot : Word) : State := { State.reset with sp := sp, stack := Vector.replicate 16 slot }

/-- The state after RESET with `I` set. -/
def pointing (i : Word) (s : State) : State := { s with I := i }

/-- Waiting for a key that goes to `Vx`, nothing latched. -/
def awaiting (x : Nibble) : State := { State.reset with waiting := true, waitX := x, outcome := some .waiting }

/-- Halted with kind `k`. -/
def stopped (k : ErrorKind) : State := { State.reset with halted := true, err := some k, outcome := some (.error k) }

/-- The step of the word `w` placed where `s` fetches. -/
def runWord (w : Nat) (s : State) : Result := step (s.withFetchWord 16 w)

/-- What `f` reads in the next state, if the step has one. -/
def seen {α : Type} (f : State → α) (r : Result) : Option α :=
  match r with
  | .next t => some (f t)
  | _ => none

/-- A next state, or the given one. -/
def nextOr (d : State) (r : Result) : State :=
  match r with
  | .next t => t
  | _ => d

/-- The bytes at `a`. -/
def bytesAt (a n : Nat) (t : State) : List Byte := t.mem.readBytes a n

/-- The columns set in row `y`. -/
def litRow (y : Fin 32) (t : State) : List Nat := (List.range 64).filter fun x => (t.fb[y.val]).getD x false

/-! ### Well-formedness: the one check, on the two words of class 0 that are no SYS (R64) -/

theorem test_wellFormed_refuses_sys_00E0 : Instr.wellFormed (.sys 0x0E0) = false := by decide
theorem test_wellFormed_refuses_sys_00EE : Instr.wellFormed (.sys 0x0EE) = false := by decide
theorem test_wellFormed_admits_sys_123 : Instr.wellFormed (.sys 0x123) = true := by decide

/-! ### Decoding: words written bit by bit from R61 and R73 -/

theorem test_decode_cls : decodeWord 0b0000_0000_1110_0000#16 = some .cls := by decide
theorem test_decode_ret : decodeWord 0b0000_0000_1110_1110#16 = some .ret := by decide
theorem test_decode_sys : decodeWord 0b0000_0001_0010_0011#16 = some (.sys 0x123) := by decide
theorem test_decode_jp : decodeWord 0b0001_1010_1011_1100#16 = some (.jp 0xABC) := by decide
theorem test_decode_call : decodeWord 0b0010_1010_1011_1100#16 = some (.call 0xABC) := by decide
theorem test_decode_seImm : decodeWord 0b0011_0010_0001_0000#16 = some (.seImm 2 0x10) := by decide
theorem test_decode_sneImm : decodeWord 0b0100_0010_0001_0000#16 = some (.sneImm 2 0x10) := by decide
theorem test_decode_seReg : decodeWord 0b0101_0001_0010_0000#16 = some (.seReg 1 2) := by decide
theorem test_decode_ldImm : decodeWord 0b0110_1010_0010_1011#16 = some (.ldImm 0xA 0x2B) := by decide
theorem test_decode_addImm : decodeWord 0b0111_1111_0000_0011#16 = some (.addImm 0xF 0x03) := by decide
theorem test_decode_ldReg : decodeWord 0b1000_1010_1011_0000#16 = some (.ldReg 0xA 0xB) := by decide
theorem test_decode_or : decodeWord 0b1000_1010_1011_0001#16 = some (.or 0xA 0xB) := by decide
theorem test_decode_and : decodeWord 0b1000_1010_1011_0010#16 = some (.and 0xA 0xB) := by decide
theorem test_decode_xor : decodeWord 0b1000_1010_1011_0011#16 = some (.xor 0xA 0xB) := by decide
theorem test_decode_addReg : decodeWord 0b1000_1010_1011_0100#16 = some (.addReg 0xA 0xB) := by decide
theorem test_decode_sub : decodeWord 0b1000_1010_1011_0101#16 = some (.sub 0xA 0xB) := by decide
theorem test_decode_shr : decodeWord 0b1000_1010_1011_0110#16 = some (.shr 0xA 0xB) := by decide
theorem test_decode_shl : decodeWord 0b1000_1010_1011_1110#16 = some (.shl 0xA 0xB) := by decide
theorem test_decode_sneReg : decodeWord 0b1001_0001_0010_0000#16 = some (.sneReg 1 2) := by decide
theorem test_decode_ldI : decodeWord 0b1010_0010_1111_0000#16 = some (.ldI 0x2F0) := by decide
theorem test_decode_jpV0 : decodeWord 0b1011_0011_1111_1110#16 = some (.jpV0 0x3FE) := by decide
theorem test_decode_rnd : decodeWord 0b1100_0011_0000_1111#16 = some (.rnd 3 0x0F) := by decide
theorem test_decode_drw : decodeWord 0b1101_0101_1010_0011#16 = some (.drw 5 0xA 3) := by decide
theorem test_decode_skp : decodeWord 0b1110_1111_1001_1110#16 = some (.skp 0xF) := by decide
theorem test_decode_sknp : decodeWord 0b1110_0100_1010_0001#16 = some (.sknp 4) := by decide
theorem test_decode_ldVxDt : decodeWord 0b1111_0101_0000_0111#16 = some (.ldVxDt 5) := by decide
theorem test_decode_ldVxK : decodeWord 0b1111_0011_0000_1010#16 = some (.ldVxK 3) := by decide
theorem test_decode_ldDtVx : decodeWord 0b1111_0101_0001_0101#16 = some (.ldDtVx 5) := by decide
theorem test_decode_ldStVx : decodeWord 0b1111_0101_0001_1000#16 = some (.ldStVx 5) := by decide
theorem test_decode_addI : decodeWord 0b1111_0010_0001_1110#16 = some (.addI 2) := by decide
theorem test_decode_ldF : decodeWord 0b1111_0001_0010_1001#16 = some (.ldF 1) := by decide
theorem test_decode_bcd : decodeWord 0b1111_0000_0011_0011#16 = some (.bcd 0) := by decide
theorem test_decode_stor : decodeWord 0b1111_0011_0101_0101#16 = some (.stor 3) := by decide
theorem test_decode_load : decodeWord 0b1111_0011_0110_0101#16 = some (.load 3) := by decide

/-- The UnknownOpcode words of 95_test_vectors.md section 2.1. -/
theorem test_decode_rejects_unknown : [0x5121#16, 0x512F#16, 0x9121#16, 0x8AB7#16, 0x8AB8#16, 0x8ABD#16, 0x8ABF#16,
    0xE09F#16, 0xE000#16, 0xE0A0#16, 0xE0A2#16, 0xE1FF#16, 0xF000#16, 0xF008#16, 0xF00B#16, 0xF01F#16, 0xF030#16, 0xF056#16,
    0xF075#16, 0xF085#16, 0xF0FF#16].map decodeWord = List.replicate 21 none := by decide
/-- The SYS words of 95_test_vectors.md section 2.1. -/
theorem test_decode_sys_words : [0x0000#16, 0x00E1#16, 0x00EF#16, 0x0123#16, 0x0FFF#16].map decodeWord =
    [some (.sys 0), some (.sys 0x0E1), some (.sys 0x0EF), some (.sys 0x123), some (.sys 0xFFF)] := by decide
/-- The high byte is at the lower address (R44). -/
theorem test_decode_bytes : decode [0x60, 0x05, 0xAA] = .instr (.ldImm 0 5) [0xAA] := by decide
/-- An instruction is two bytes (R60). -/
theorem test_decode_truncated : decode [0x60] = .rejected .truncated := by decide
theorem test_decodeTableWord : decodeTableWord 16 0xD5A3 = some (.drw 5 0xA 3) := by decide

/-! ### One step of each instruction (95_test_vectors.md sections 1 and 2.2 to 2.9) -/

theorem test_cls : seen (fun t => (t.fb.pixel 7 3, t.dirty, t.pc))
    (exec .cls { State.reset with fb := Vector.replicate 32 (Vector.replicate 64 true) }) =
    some (false, true, 0x202) := by decide
theorem test_ret : seen (fun t => (t.sp, t.pc, t.outcome)) (runWord 0x00EE (stacked 1 0x0ABC)) =
    some (0, 0x0ABC, some .advanced) := by decide
theorem test_ret_underflow : seen (fun t => (t.pc, t.halted, t.outcome)) (runWord 0x00EE State.reset) =
    some (0x200, true, some (.error .stackUnderflow)) := by decide
theorem test_sys : seen (fun t => (t.pc, t.halted, t.outcome)) (runWord 0x0123 State.reset) =
    some (0x202, false, some (.error .unsupportedOpcode)) := by decide
theorem test_jp : seen State.pc (runWord 0x1ABC State.reset) = some 0x0ABC := by decide
theorem test_call : seen (fun t => (t.stack[15], t.sp, t.pc)) (runWord 0x2ABC (stacked 15 0)) =
    some (0x202, 16, 0x0ABC) := by decide
theorem test_call_overflow : seen (fun t => (t.sp, t.pc, t.halted, t.err)) (runWord 0x2ABC (stacked 16 0)) =
    some (16, 0x200, true, some .stackOverflow) := by decide
theorem test_seImm_skips : seen State.pc (runWord 0x3210 (fresh [(2, 0x10)])) = some 0x204 := by decide
theorem test_seImm_falls : seen State.pc (runWord 0x3210 (fresh [(2, 0x11)])) = some 0x202 := by decide
theorem test_sneImm_falls : seen State.pc (runWord 0x4210 (fresh [(2, 0x10)])) = some 0x202 := by decide
theorem test_sneImm_skips : seen State.pc (runWord 0x4210 (fresh [(2, 0x11)])) = some 0x204 := by decide
theorem test_seReg_skips : seen State.pc (runWord 0x5120 (fresh [(1, 7), (2, 7)])) = some 0x204 := by decide
theorem test_seReg_falls : seen State.pc (runWord 0x5120 (fresh [(1, 7), (2, 8)])) = some 0x202 := by decide
theorem test_sneReg_skips : seen State.pc (runWord 0x9120 (fresh [(1, 7), (2, 8)])) = some 0x204 := by decide
theorem test_sneReg_falls : seen State.pc (runWord 0x9120 (fresh [(1, 7), (2, 7)])) = some 0x202 := by decide
theorem test_ldImm : seen (fun t => (t.reg 0xA, t.reg 0xB)) (runWord 0x6A2B State.reset) = some (0x2B, 0) := by decide
theorem test_addImm_wraps : seen (fun t => (t.reg 0, t.reg 0xF)) (runWord 0x7007 (fresh [(0, 0xFF), (0xF, 1)])) =
    some (0x06, 1) := by decide
theorem test_addImm_VF : seen (fun t => t.reg 0xF) (runWord 0x7F03 (fresh [(0xF, 0xFE)])) = some 1 := by decide
theorem test_ldReg : seen (fun t => (t.reg 0, t.reg 1)) (runWord 0x8010 (fresh [(1, 0x5A)])) = some (0x5A, 0x5A) := by decide
theorem test_or : seen (fun t => (t.reg 0, t.reg 0xF)) (runWord 0x8011 (fresh [(0, 0xF0), (1, 0x0F), (0xF, 1)])) =
    some (0xFF, 1) := by decide
theorem test_and : seen (fun t => t.reg 0) (runWord 0x8012 (fresh [(0, 0xF0), (1, 0x3C)])) = some 0x30 := by decide
theorem test_xor : seen (fun t => t.reg 0) (runWord 0x8013 (fresh [(0, 0xF0), (1, 0x3C)])) = some 0xCC := by decide
theorem test_addReg_carry : seen (fun t => (t.reg 0, t.reg 1, t.reg 0xF)) (runWord 0x8014 (fresh [(0, 0xFF), (1, 1)])) =
    some (0, 1, 1) := by decide
theorem test_addReg_flag_wins : seen (fun t => t.reg 0xF) (runWord 0x8F14 (fresh [(0xF, 0xFF), (1, 2)])) =
    some 1 := by decide
theorem test_sub_borrow : seen (fun t => (t.reg 0, t.reg 1, t.reg 0xF)) (runWord 0x8015 (fresh [(0, 1), (1, 2)])) =
    some (0xFF, 2, 0) := by decide
theorem test_sub_equal : seen (fun t => (t.reg 0, t.reg 0xF)) (runWord 0x8015 (fresh [(0, 5), (1, 5)])) =
    some (0, 1) := by decide
theorem test_shr_ignores_y : seen (fun t => (t.reg 0, t.reg 1, t.reg 0xF)) (runWord 0x8016 (fresh [(0, 0xFF), (1, 0x55)])) =
    some (0x7F, 0x55, 1) := by decide
theorem test_shr_VF : seen (fun t => t.reg 0xF) (runWord 0x8F06 (fresh [(0xF, 2)])) = some 0 := by decide
theorem test_shl_ignores_y : seen (fun t => (t.reg 0, t.reg 1, t.reg 0xF)) (runWord 0x801E (fresh [(0, 0xFF), (1, 0x55)])) =
    some (0xFE, 0x55, 1) := by decide
theorem test_shl_VF : seen (fun t => t.reg 0xF) (runWord 0x8F0E (fresh [(0xF, 0x81)])) = some 1 := by decide
theorem test_ldI : seen State.I (runWord 0xA2F0 State.reset) = some 0x2F0 := by decide
theorem test_jpV0 : seen State.pc (runWord 0xB3FE (fresh [(0, 2), (3, 0x77)])) = some 0x400 := by decide
theorem test_jpV0_wide : seen State.pc (runWord 0xBFFF (fresh [(0, 0xFF)])) = some 0x10FE := by decide
/-- With `nn` = 00 the result is 00 whatever the random byte (section 2.4). -/
theorem test_rnd_masks : seen (fun t => (t.draws, t.pc)) (runWord 0xC300 State.reset) = some (1, 0x202) := by decide
/-- Sprite A5 at (8, 2): bit 7 first (section 2.6). -/
theorem test_drw_row : (fun t => (litRow 2 t, t.reg 0xF, t.dirty))
    (drawUnder .clip 0 1 1 (pointing 0x300 (withBytes 0x300 [0xA5] (fresh [(0, 8), (1, 2)])))) =
    ([8, 10, 13, 15], 0, true) := by decide
/-- DF11: the old `VF` is the x origin, then `VF` is the collision flag (section 2.6). -/
theorem test_drw_VF_origin : (fun t => (litRow 2 t, t.reg 0xF))
    (drawUnder .clip 0xF 1 1 (pointing 0x300 (withBytes 0x300 [0x80] (fresh [(0xF, 5), (1, 2)])))) = ([5], 0) := by decide
theorem test_skp : seen State.pc (runWord 0xE49E { fresh [(4, 0x17)] with keys := State.reset.keys.set 7 true }) =
    some 0x204 := by decide
theorem test_sknp : seen State.pc (runWord 0xE4A1 { fresh [(4, 7)] with keys := State.reset.keys.set 7 true }) =
    some 0x202 := by decide
theorem test_ldVxDt : seen (fun t => (t.reg 5, t.DT)) (runWord 0xF507 { State.reset with DT := 0x2A }) =
    some (0x2A, 0x2A) := by decide
theorem test_ldVxK : seen (fun t => (t.pc, t.waiting, t.waitX, t.outcome)) (runWord 0xF30A State.reset) =
    some (0x200, true, 3, some .waiting) := by decide
theorem test_ldDtVx : seen (fun t => (t.DT, t.ST)) (runWord 0xF515 (fresh [(5, 0x3C)])) = some (0x3C, 0) := by decide
theorem test_ldStVx : seen (fun t => (t.DT, t.ST)) (runWord 0xF518 (fresh [(5, 5)])) = some (0, 5) := by decide
theorem test_addI_wraps : seen (fun t => (t.I, t.reg 0xF)) (runWord 0xF21E (pointing 0xFFFF (fresh [(2, 2)]))) =
    some (0x0001, 0) := by decide
theorem test_ldF : seen State.I (runWord 0xF129 (fresh [(1, 0x0A)])) = some 0x82 := by decide
theorem test_ldF_literal : seen State.I (runWord 0xF129 (fresh [(1, 0xFF)])) = some 0x54B := by decide
theorem test_bcd_top : seen (fun t => (bytesAt 0xFFD 3 t, t.I)) (runWord 0xF033 (pointing 0xFFD (fresh [(0, 123)]))) =
    some ([1, 2, 3], 0xFFD) := by decide
theorem test_bcd_out_of_range : seen (fun t => (bytesAt 0xFFE 2 t, t.pc, t.err))
    (runWord 0xF033 (pointing 0xFFE (fresh [(0, 123)]))) = some ([0, 0], 0x200, some .memoryOutOfRange) := by decide
theorem test_stor : seen (fun t => (bytesAt 0x400 4 t, t.I))
    (runWord 0xF255 (pointing 0x400 (withBytes 0x403 [0x99] (fresh [(0, 0x11), (1, 0x22), (2, 0x33)])))) =
    some ([0x11, 0x22, 0x33, 0x99], 0x400) := by decide
theorem test_stor_out_of_range : seen (fun t => (bytesAt 0xFF1 3 t, t.err))
    (runWord 0xFF55 (pointing 0xFF1 (fresh [(0, 0x11)]))) = some ([0, 0, 0], some .memoryOutOfRange) := by decide
theorem test_load : seen (fun t => (t.reg 0, t.reg 1, t.reg 2, t.I))
    (runWord 0xF165 (pointing 0x400 (withBytes 0x400 [0xAA, 0xBB] (fresh [(2, 0x77)])))) =
    some (0xAA, 0xBB, 0x77, 0x400) := by decide
theorem test_load_out_of_range : seen (fun t => (t.reg 0, t.err)) (runWord 0xF165 (pointing 0xFFF (fresh [(0, 9)]))) =
    some (9, some .memoryOutOfRange) := by decide

/-! ### Sprites at the edge: 95_test_vectors.md section 2.6, one policy each -/

/-- Two bytes FF at 0x300, the origin in `V0` and `V1`. -/
def edgeSprite (ox oy : Byte) : State := pointing 0x300 (withBytes 0x300 [0xFF, 0xFF] (fresh [(0, ox), (1, oy)]))

theorem test_drw_wrap : (fun t => (litRow 31 t, litRow 0 t)) (drawUnder .wrap 0 1 2 (edgeSprite 60 31)) =
    ([0, 1, 2, 3, 60, 61, 62, 63], [0, 1, 2, 3, 60, 61, 62, 63]) := by decide
theorem test_drw_clip : (fun t => (litRow 31 t, t.dirty)) (drawUnder .clip 0 1 2 (edgeSprite 124 63)) =
    ([], false) := by decide
theorem test_drw_wrapOriginClip : (fun t => (litRow 31 t, litRow 0 t))
    (drawUnder .wrapOriginClip 0 1 2 (edgeSprite 124 63)) = ([60, 61, 62, 63], []) := by decide
/-- The second draw of the same sprite clears it and reports the collision (S6). -/
theorem test_drw_twice : (fun t => (litRow 2 t, t.reg 0xF)) (drawUnder .clip 0 1 1
    (drawUnder .clip 0 1 1 (pointing 0x300 (withBytes 0x300 [0x80] (fresh [(0, 8), (1, 2)]))))) = ([], 1) := by decide

/-! ### Fetch, errors, keys, timers, host operations (sections 2.7 to 2.10) -/

theorem test_fetch_high_byte_first : seen (fun t => (t.reg 0, t.pc))
    (step { withBytes 0xFFE [0x60, 0x05] State.reset with pc := 0xFFE }) = some (5, 0x1000) := by decide
theorem test_fetch_out_of_range : seen (fun t => (t.pc, t.err)) (step { State.reset with pc := 0xFFF }) =
    some (0xFFF, some .memoryOutOfRange) := by decide
theorem test_unknown_opcode : seen (fun t => (t.pc, t.reg 0, t.halted, t.outcome)) (runWord 0x8017 (fresh [(0, 7), (1, 2)])) =
    some (0x202, 7, false, some (.error .unknownOpcode)) := by decide
/-- The placed word runs from a halted state whose `pc` lies outside memory too (log 34). -/
theorem test_withFetchWord_from_halted : seen (fun t => (t.reg 0, t.pc))
    (runWord 0x6005 { stopped .memoryOutOfRange with pc := 0x10FE, agenda := [.tick] }) = some (5, 0x202) := by decide
theorem test_fresh_step : seen (fun t => (t.pc, t.outcome)) (step State.reset) =
    some (0x202, some (.error .unsupportedOpcode)) := by decide
theorem test_key_latch : seen (fun t => (t.key 9, t.keyValid, t.keyLatch))
    (step { awaiting 3 with agenda := [.keyWrite 9 true] }) = some (true, true, 9) := by decide
theorem test_wait_completes : seen (fun t => (t.reg 3, t.pc, t.waiting, t.keyValid))
    (step { awaiting 3 with keyValid := true, keyLatch := 9 }) = some (9, 0x202, false, false) := by decide
theorem test_tick_while_halted : seen (fun t => (t.DT, t.ST, t.halted))
    (step { stopped .stackOverflow with DT := 4, agenda := [.tick] }) = some (3, 0, true) := by decide
theorem test_load_program : seen (bytesAt 0x200 2) (step { State.reset with agenda := [.load [0x60, 0x05]] }) =
    some [0x60, 0x05] := by decide
/-- S14: 3585 bytes do not load. -/
theorem test_load_too_large (prog : List Byte) (h : prog.length = 3585) :
    seen (fun t => (t.halted, t.err, t.mem)) (step { State.reset with agenda := [.load prog] }) =
    some (true, some .loadTooLarge, []) := by
  simp [step, perform, State.loadProgram, State.loadAdmitted, State.reset, progMax, memSize, progBase, State.halt, seen, h]
theorem test_dirty_consume : seen (fun t => (t.dirty, t.reply))
    (step { State.reset with dirty := true, agenda := [.dirtyConsume] }) = some (false, some (.dirty true)) := by decide
theorem test_reset_leaves_halted : seen State.errCode (step { stopped .memoryOutOfRange with agenda := [.reset] }) =
    some 0 := by decide

/-! ### Witnesses: each statement's hypotheses hold together somewhere, at the boundary values of each clause -/

theorem witness_DecodeOfEncodeIsTheInstruction :
    Instr.wellFormed (.sys 0) = true ∧ Instr.wellFormed (.sys 0xFFF) = true ∧ Instr.wellFormed (.drw 0xF 0xF 0xF) = true := by
  decide
theorem witness_EncodeOfDecodeIsTheWord : decodeWord 0xD5A3 = some (.drw 5 0xA 3) := by decide
theorem witness_ClassZeroIsClsRetOrSys : (0xFFF#12 ≠ 0x0E0#12 ∧ 0xFFF#12 ≠ 0x0EE#12) ∧
    (0x0DF#12 ≠ 0x0E0#12 ∧ 0x0DF#12 ≠ 0x0EE#12) ∧ (0x0EF#12 ≠ 0x0E0#12 ∧ 0x0EF#12 ≠ 0x0EE#12) := by decide
theorem witness_ClassesEightEAndFDispatch :
    0x7#4 ∈ [0x7#4, 0x8#4, 0x9#4, 0xA#4, 0xB#4, 0xC#4, 0xD#4, 0xF#4] ∧
    0xF#4 ∈ [0x7#4, 0x8#4, 0x9#4, 0xA#4, 0xB#4, 0xC#4, 0xD#4, 0xF#4] ∧
    (0x9F#8 ≠ 0x9E#8 ∧ 0x9F#8 ≠ 0xA1#8) ∧
    0x08#8 ∉ [0x07#8, 0x0A#8, 0x15#8, 0x18#8, 0x1E#8, 0x29#8, 0x33#8, 0x55#8, 0x65#8] := by decide
theorem witness_DecoderAgreesWithTheOpcodeMap :
    decodeWord 0x0123 = some (.sys 0x123) ∧
    (0x00E0#16 &&& (opcodeRow .cls).mask = (opcodeRow .cls).pattern ∧ (opcodeRow .cls).mask = 0xFFFF#16) ∧
    (0x0123#16 &&& (opcodeRow (.sys 0)).mask = (opcodeRow (.sys 0)).pattern ∧ ¬(0x0123#16 = 0x00E0#16 ∨ 0x0123#16 = 0x00EE#16)) := by
  decide

/-- A STEP of a state with an empty agenda, and the same one named by the agenda, more to come behind it. -/
theorem witness_performsStep (u : State) (h : u.agenda = []) :
    u.performsStep u ∧ State.performsStep { u with agenda := [.step, .tick] } { u with agenda := [.tick] } :=
  ⟨Or.inl ⟨h, rfl⟩, Or.inr ⟨[.tick], rfl, rfl⟩⟩

/-- The state with bytes `bs` at address `a` and `pc` there. -/
def codeAt (a : Word) (bs : List Byte) : State := withBytes a.toNat bs { State.reset with pc := a }

/-- A fetch at the last fetchable address, and one at an odd address, for either form of STEP. -/
theorem witness_StepRunsTheDecodedInstruction :
    ((codeAt 0xFFE [0x60, 0x05]).performsStep (codeAt 0xFFE [0x60, 0x05]) ∧ (codeAt 0xFFE [0x60, 0x05]).fetches ∧
      decodeWord (codeAt 0xFFE [0x60, 0x05]).wordAtPc = some (.ldImm 0 5)) ∧
    (State.performsStep { codeAt 0x201 [0x12, 0x08] with agenda := [.step, .tick] }
        { codeAt 0x201 [0x12, 0x08] with agenda := [.tick] } ∧
      State.fetches { codeAt 0x201 [0x12, 0x08] with agenda := [.tick] } ∧
      decodeWord (State.wordAtPc { codeAt 0x201 [0x12, 0x08] with agenda := [.tick] }) = some (.jp 0x208)) :=
  ⟨⟨(witness_performsStep _ rfl).1, by decide, by decide⟩, (witness_performsStep (codeAt 0x201 [0x12, 0x08]) rfl).2,
    by decide, by decide⟩
theorem witness_UnknownOpcodeIsReportedAndSkipped :
    State.performsStep { codeAt 0x200 [0x80, 0x17] with agenda := [.step, .tick] }
      { codeAt 0x200 [0x80, 0x17] with agenda := [.tick] } ∧
    State.fetches { codeAt 0x200 [0x80, 0x17] with agenda := [.tick] } ∧
    decodeWord (State.wordAtPc { codeAt 0x200 [0x80, 0x17] with agenda := [.tick] }) = none :=
  ⟨(witness_performsStep (codeAt 0x200 [0x80, 0x17]) rfl).2, by decide, by decide⟩
theorem witness_HaltedStepRepeatsTheError : ∃ s u : State, s ≠ u ∧ s.performsStep u ∧ u.halted = true ∧
    u.err = some .stackOverflow :=
  ⟨_, _, by decide, (witness_performsStep (stopped .stackOverflow) rfl).2, rfl, rfl⟩
theorem witness_WaitingStepWaitsOrCompletes :
    (∃ s u : State, s ≠ u ∧ s.performsStep u ∧ u.isWaiting ∧ u.keyValid = false) ∧
    (∃ u : State, u.performsStep u ∧ u.isWaiting ∧ u.keyValid = true) :=
  ⟨⟨_, _, by decide, (witness_performsStep (awaiting 3) rfl).2, by decide, rfl⟩,
    ⟨_, (witness_performsStep { awaiting 3 with keyValid := true, keyLatch := 9 } rfl).1, by decide, rfl⟩⟩
/-- The first address a fetch cannot reach, and the largest `pc` any rule gives. -/
theorem witness_FetchOutsideMemoryHalts :
    (∃ u : State, u.performsStep u ∧ u.isRunning ∧ 0x0FFE < u.pc.toNat ∧ u.pc = 0x0FFF) ∧
    (∃ s u : State, s ≠ u ∧ s.performsStep u ∧ u.isRunning ∧ 0x0FFE < u.pc.toNat ∧ u.pc = 0x10FE) :=
  ⟨⟨_, (witness_performsStep { State.reset with pc := 0x0FFF } rfl).1, by decide, by decide, rfl⟩,
    ⟨_, _, by decide, (witness_performsStep { State.reset with pc := 0x10FE } rfl).2, by decide, by decide, rfl⟩⟩

theorem witness_RetPopsOrHalts : 0 < (stacked 1 0).sp.val ∧ 0 < (stacked 16 0).sp.val ∧ (stacked 0 0).sp.val = 0 := by decide
theorem witness_CallPushesOrHalts :
    (stacked 0 0).sp.val < 16 ∧ (stacked 15 0).sp.val < 16 ∧ (stacked 16 0).sp.val = 16 := by decide
theorem witness_ReturnUndoesCall : ∃ t u : State, (stacked 15 0).sp.val < 16 ∧ exec (.call 0x300) (stacked 15 0) = .next t ∧
    u.stack = t.stack ∧ u.sp = t.sp := ⟨_, _, by decide, rfl, rfl, rfl⟩
theorem witness_RegisterSkipsMoveThePc : (0x1#4 ≠ 0 ∧ 0xF#4 ≠ 0) := by decide
theorem witness_RndMasksTheRandomByte : (0x0F#8).getLsbD 4 = false ∧ (0x7F#8).getLsbD 7 = false := by decide

/-- The last legal sprites: one byte at 4095, fifteen up to 4095, none at all with `I` outside memory. -/
theorem witness_DrwXorsTheCoveredPixels :
    (pointing 0xFFF State.reset).base + (1#4).toNat ≤ 4096 ∧ (pointing 0xFF1 State.reset).base + (0xF#4).toNat ≤ 4096 ∧
    ((0#4).toNat = 0 ∧ 4096 < (pointing 0xFFFF State.reset).base) := by decide
/-- Under every policy a pixel is covered by sprite 80 at the origin, and that pixel may be 0 or 1 before. -/
theorem witness_covered (policy : EdgePolicy) : spriteCovers policy 0 0 [0x80] 0 0 :=
  ⟨0, 0, by decide, by decide, by decide, by cases policy <;> rfl⟩
theorem witness_not_covered (policy : EdgePolicy) : ¬ spriteCovers policy 0 0 [0x00] 0 0 := by
  rintro ⟨row, col, h, hc, hb, -⟩
  obtain rfl : row = 0 := by simpa using h
  revert hb; simp
theorem witness_DrwOutsideMemoryHalts : 0 < (1#4).toNat ∧ 4096 < (pointing 0x1000 State.reset).base + (1#4).toNat ∧
    0 < (0xF#4).toNat ∧ 4096 < (pointing 0xFF2 State.reset).base + (0xF#4).toNat := by decide
/-- The last byte of memory as a sprite, on a clear screen, twice from one origin. -/
theorem witness_DrawingTwiceRestoresTheScreen : ∃ t u : State,
    (pointing 0xFFF State.reset).base + (1#4).toNat ≤ 4096 ∧
    exec (.drw 0 1 1) (pointing 0xFFF State.reset) = .next t ∧ exec (.drw 0 1 1) t = .next u ∧
    t.reg 0 = (pointing 0xFFF State.reset).reg 0 ∧ t.reg 1 = (pointing 0xFFF State.reset).reg 1 ∧
    ∀ px py, (pointing 0xFFF State.reset).fb.pixel px py = false := by
  refine ⟨_, _, by decide, rfl, rfl, ?_, ?_, fun px py => by simp [pointing, State.reset, Framebuffer.pixel]⟩
  all_goals
    obtain ⟨c, e, -⟩ := drawUnder_covers edgePolicy 0 1 1 (pointing 0xFFF State.reset) (Or.inr (by decide))
    rw [e]
    rfl
/-- With x = F the origin stays where it is when `VF` comes out as it was: an empty sprite from `VF` = 0. -/
theorem witness_DrawingTwiceRestoresTheScreen_VF : ∃ t : State, (0#4).toNat = 0 ∧
    exec (.drw 0xF 0xF 0) State.reset = .next t ∧ t.reg 0xF = State.reset.reg 0xF := ⟨_, rfl, rfl, rfl⟩

/-- A press of a released key, a write of 1 to a key held, and a release. -/
theorem witness_KeyPressCompletesTheWait : (awaiting 3).isWaiting ∧ (awaiting 3).keyValid = false ∧
    ((awaiting 3).key 9 = false ∧ true = true) ∧
    ¬(State.key { awaiting 3 with keys := Vector.replicate 16 true } 9 = false ∧ true = true) ∧
    ¬((awaiting 3).key 9 = false ∧ false = true) ∧
    State.agenda { awaiting 3 with agenda := [.keyWrite 9 true, .step] } = [.keyWrite 9 true, .step] := by decide

theorem witness_BcdStoresTheDecimalDigits : (pointing 0xFFD State.reset).mem.wf ∧ (pointing 0xFFD State.reset).base ≤ 4093 ∧
    4093 < (pointing 0xFFE State.reset).base := by decide
theorem witness_StorWritesTheRegisterBlock : (withBytes 0x400 [0xAA] State.reset).mem.wf ∧
    (pointing 0xFF0 State.reset).base + (0xF#4).toNat ≤ 4095 ∧ (pointing 0xFFF State.reset).base + (0#4).toNat ≤ 4095 ∧
    4095 < (pointing 0xFF1 State.reset).base + (0xF#4).toNat ∧ 4095 < (pointing 0x1000 State.reset).base + (0#4).toNat := by
  decide
theorem witness_LoadReadsTheRegisterBlock :
    (pointing 0xFF0 State.reset).base + (0xF#4).toNat ≤ 4095 ∧ 4095 < (pointing 0xFF1 State.reset).base + (0xF#4).toNat := by
  decide
/-- STOR then LOAD, the registers cleared in between (S8); the last register is stored at 4095. -/
theorem witness_LoadAfterStorRestoresTheRegisters : ∃ s t u : State, s.mem.wf ∧ s.base + (3#4).toNat ≤ 4095 ∧
    exec (.stor 3) s = .next t ∧ u.mem = t.mem ∧ u.I = s.I ∧ u.V ≠ s.V :=
  ⟨pointing 0xFFC (fresh [(0, 0xDE), (3, 0xEF)]), _,
    { nextOr State.reset (exec (.stor 3) (pointing 0xFFC (fresh [(0, 0xDE), (3, 0xEF)]))) with V := Vector.replicate 16 0 },
    by decide, by decide, rfl, rfl, rfl, by decide⟩
theorem witness_FetchSeesAStoreAtOnce : ∃ t, (pointing 0xFFE (fresh [(0, 0x12), (1, 0x08)])).mem.wf ∧
    (pointing 0xFFE (fresh [(0, 0x12), (1, 0x08)])).base + (1#4).toNat ≤ 4095 ∧ 1 ≤ (1#4).toNat ∧
    exec (.stor 1) (pointing 0xFFE (fresh [(0, 0x12), (1, 0x08)])) = .next t :=
  ⟨_, by decide, by decide, by decide, rfl⟩
/-- Two ways of writing the same bytes. -/
theorem witness_EqualReadsAreEqualMemories : Memory.wf [(0x300, 1), (0x301, 2)] ∧
    ((Memory.write [] 0x301 2).write 0x300 1).wf ∧
    ∀ a, Memory.read [(0x300, 1), (0x301, 2)] a = ((Memory.write [] 0x301 2).write 0x300 1).read a :=
  ⟨by decide, by decide, fun _ => congrArg (fun m => Memory.read m _) (by decide)⟩

theorem witness_OnlyBcdAndStorWriteMemory : ∃ t, exec (.call 0x300) State.reset = .next t ∧
    (∀ x, Instr.call 0x300 ≠ .bcd x) ∧ (∀ x, Instr.call 0x300 ≠ .stor x) := ⟨_, rfl, nofun, nofun⟩
/-- One instruction meets every clause's premise, from a state whose `dirty` is set. -/
theorem witness_SpecialStateHasOnlyItsListedWriters : ∃ t, exec (.ldImm 0 1) { State.reset with dirty := true } = .next t ∧
    Instr.ldImm 0 1 ≠ .cls ∧ (∀ x y n, Instr.ldImm 0 1 ≠ .drw x y n) ∧ State.dirty { State.reset with dirty := true } = true ∧
    (∀ x, Instr.ldImm 0 1 ≠ .ldDtVx x) ∧ (∀ x, Instr.ldImm 0 1 ≠ .ldStVx x) ∧ (∀ a, Instr.ldImm 0 1 ≠ .ldI a) ∧
    (∀ x, Instr.ldImm 0 1 ≠ .addI x) ∧ (∀ x, Instr.ldImm 0 1 ≠ .ldF x) ∧ Instr.ldImm 0 1 ≠ .ret ∧
    (∀ a, Instr.ldImm 0 1 ≠ .call a) := ⟨_, rfl, nofun, nofun, rfl, nofun, nofun, nofun, nofun, nofun, nofun, nofun⟩
theorem witness_RegistersHaveOnlyTheirListedWriters : (∃ t, exec (.addReg 1 2) State.reset = .next t) ∧
    0x2#4 ∉ destinations (.addReg 1 2) ∧ 0x4#4 ∉ destinations (.load 3) := ⟨⟨_, rfl⟩, by decide, by decide⟩

/-- Each line of the table: a halt, an instruction of each kind that does not halt, and the skips the other way. -/
theorem witness_PcAfterEveryInstruction : (stacked 16 0).halted = false ∧ (stacked 1 0x300).halted = false ∧
    seen State.halted (exec (.call 0) (stacked 16 0)) = some true ∧
    [Instr.jp 0xFFF, .call 0xFFF, .ret, .jpV0 0xFFF, .seImm 0 0, .sneImm 0 0, .seReg 0 0, .sneReg 0 0, .skp 0, .sknp 0,
      .ldVxK 0, .ldImm 0 0].map (fun i => seen State.halted (exec i (stacked 1 0x300))) = List.replicate 12 (some false) ∧
    [Instr.seImm 0 1, .sneImm 0 1, .seReg 0 1, .sneReg 0 1, .skp 0, .sknp 0].map (fun i => seen State.halted
      (exec i { fresh [(1, 1)] with keys := Vector.replicate 16 true })) = List.replicate 6 (some false) := by
  decide
/-- Each condition at the first value that halts and at the last that does not. -/
theorem witness_HaltExactlyOnTheListedConditions :
    [(Instr.call 0, stacked 16 0), (.ret, stacked 0 0), (.bcd 0, pointing 0xFFE State.reset),
      (.stor 0xF, pointing 0xFF1 State.reset), (.load 0xF, pointing 0xFF1 State.reset),
      (.drw 0 0 1, pointing 0x1000 State.reset)].map (fun p => seen State.halted (exec p.1 p.2)) =
      List.replicate 6 (some true) ∧
    [(Instr.call 0, stacked 15 0), (.ret, stacked 1 0), (.bcd 0, pointing 0xFFD State.reset),
      (.stor 0xF, pointing 0xFF0 State.reset), (.load 0xF, pointing 0xFF0 State.reset)].map
        (fun p => seen State.halted (exec p.1 p.2)) = List.replicate 5 (some false) := by decide

theorem witness_StepStopsOnlyForAMisplacedLoad :
    State.agendaAdmitted { State.reset with agenda := [.load []] } ∧
    ¬ State.agendaAdmitted { State.reset with loaded := true, agenda := [.load []] } := by
  constructor
  · intro prog rest h; cases h; rfl
  · intro h; exact absurd (h [] [] rfl) (by decide)

/-- A state that is Waiting after the STEP of its `Fx0A`, with one frame on the stack and a byte stored, meets the invariant. -/
theorem witness_inv : State.Inv { withBytes 0x300 [7] (awaiting 3) with
    stack := Vector.replicate 16 0x1000, sp := 1, keyValid := true, keyLatch := 9 } where
  memCanonical := by decide
  latchOnlyWhileWaiting := by decide
  oneMode := by decide
  waitingAfterAStep := by decide
  haltedHasAKind := by decide
  kindIsFatal := by intro k h; cases h
  pcBound := by decide
  waitingPc := by decide
  stackBound := by decide
theorem witness_StepKeepsTheInvariant : ∃ s t : State, s.Inv ∧ step s = .next t := ⟨_, _, witness_inv, rfl⟩
theorem witness_WaitingCoreIsInert : ∃ s t u : State, s.Inv ∧ s.isWaiting ∧ perform (.keyWrite 2 true) s = .next t ∧
    perform .tick s = .next u ∧ Operation.keyWrite 2 true ≠ .reset ∧ Operation.keyWrite 2 true ≠ .step :=
  ⟨_, _, _, witness_inv, by decide, rfl, rfl, by decide, by decide⟩

theorem witness_TickCountsBothTimersDown :
    State.agenda { State.reset with DT := 1, agenda := [.tick] } = [.tick] := by decide
/-- The one combination that latches, and each of the four ways to miss it. -/
theorem witness_KeyWriteSetsTheSlotAndMayLatch :
    ((awaiting 0).waiting = true ∧ (awaiting 0).keyValid = false ∧ (awaiting 0).key 0xF = false) ∧
    State.reset.waiting = false ∧ State.keyValid { awaiting 0 with keyValid := true } = true ∧
    State.key { awaiting 0 with keys := Vector.replicate 16 true } 0xF = true ∧
    State.agenda { awaiting 0 with agenda := [.keyWrite 0xF true] } = [.keyWrite 0xF true] := by decide
theorem witness_LoadPlacesTheProgramOrHalts : State.reset.mem.wf ∧ State.reset.loaded = false ∧ State.reset.outcome = none ∧
    (List.replicate 3584 (1 : Byte)).length ≤ 3584 ∧ 3584 < (List.replicate 3585 (1 : Byte)).length ∧
    State.loaded { State.reset with loaded := true } = true ∧ (awaiting 3).outcome ≠ none ∧
    State.agenda { State.reset with agenda := [.load [1]] } = [.load [1]] :=
  ⟨by decide, rfl, rfl, List.length_replicate.le, by rw [List.length_replicate]; decide, rfl, by decide, rfl⟩
theorem witness_ResetRestoresEveryElement :
    State.agenda { stopped .stackUnderflow with agenda := [.reset] } = [.reset] := by decide
theorem witness_QueriesAnswerAndChangeNothing :
    State.agenda { State.reset with agenda := [.pixelQuery 63 31] } = [.pixelQuery 63 31] ∧
    State.agenda { State.reset with dirty := true, agenda := [.dirtyConsume] } = [.dirtyConsume] ∧
    State.agenda { State.reset with agenda := [.timerObserve, .tick] } = [.timerObserve, .tick] := by decide

end Sys2Proof.Tests.Slice0
end

section
/-! The decoder on each format (R61): what it reads back from an instruction's own word, and the words of classes 8, E and F
it rejects. The obligations on class 0, the single-instruction classes and the dispatching classes are read off from these. -/

namespace Sys2Proof

/-! ### The classes that dispatch -/

theorem decodeWord_of_class0 {w : Word} (h : fieldClass w = 0x0#4) : decodeWord w = some (decodeClass0 w) := by
  simp [decodeWord, h]

theorem decodeWord_of_class8 {w : Word} (h : fieldClass w = 0x8#4) : decodeWord w = decodeClass8 w := by
  simp [decodeWord, h]

theorem decodeWord_of_classE {w : Word} (h : fieldClass w = 0xE#4) : decodeWord w = decodeClassE w := by
  simp [decodeWord, h]

theorem decodeWord_of_classF {w : Word} (h : fieldClass w = 0xF#4) : decodeWord w = decodeClassF w := by
  simp [decodeWord, h]

/-- Words with different address fields are different words. -/
theorem layoutNNN_ne {c : Nibble} {nnn : Addr} {w : Word} (h : nnn ≠ fieldNNN w) : layoutNNN c nnn ≠ w := by
  rintro rfl
  exact h (fieldNNN_layoutNNN c nnn).symm

/-- A word of class 0 whose address field is none of the two fixed ones is the machine-call (R64). -/
theorem decodeClass0_layoutNNN {nnn : Addr} (h : isMachineCallAddr nnn = true) :
    decodeClass0 (layoutNNN 0x0 nnn) = .sys nnn := by
  simp only [isMachineCallAddr, Bool.and_eq_true, bne_iff_ne] at h
  obtain ⟨hcls, hret⟩ := h
  rw [decodeClass0, if_neg (layoutNNN_ne (w := 0x00E0#16) hcls), if_neg (layoutNNN_ne (w := 0x00EE#16) hret),
    fieldNNN_layoutNNN]

/-- Class 8 rejects every low nibble that is none of its eight (R67). -/
theorem decodeClass8_eq_none {w : Word} (h : fieldN w ∉ [0x0#4, 0x1#4, 0x2#4, 0x3#4, 0x4#4, 0x5#4, 0x6#4, 0xE#4]) :
    decodeClass8 w = none := by
  unfold decodeClass8
  split
  case h_9 => rfl
  all_goals simp_all [← BitVec.toNat_inj]

/-- Class E rejects every low byte that is none of its two (R67). -/
theorem decodeClassE_eq_none {w : Word} (h : fieldNN w ∉ [0x9E#8, 0xA1#8]) : decodeClassE w = none := by
  unfold decodeClassE
  split
  case h_3 => rfl
  all_goals simp_all [← BitVec.toNat_inj]

/-- Class F rejects every low byte that is none of its nine (R67). -/
theorem decodeClassF_eq_none {w : Word}
    (h : fieldNN w ∉ [0x07#8, 0x0A#8, 0x15#8, 0x18#8, 0x1E#8, 0x29#8, 0x33#8, 0x55#8, 0x65#8]) :
    decodeClassF w = none := by
  unfold decodeClassF
  split
  case h_10 => rfl
  all_goals simp_all [← BitVec.toNat_inj]

/-! ### An instruction's own word -/

/-- The decoder reads every well-formed instruction back from its own word (R63 to R67). -/
theorem decodeWord_encodeWord (i : Instr) (h : i.wellFormed = true) : decodeWord (encodeWord i) = some i := by
  cases i with
  | cls | ret => rfl
  | sys nnn =>
    exact (decodeWord_of_class0 (fieldClass_layoutNNN _ nnn)).trans (congrArg some (decodeClass0_layoutNNN h))
  | jp | call | ldI | jpV0 => simp [encodeWord, decodeWord]
  | seImm | sneImm | ldImm | addImm | rnd => simp [encodeWord, decodeWord]
  | seReg | sneReg | drw => simp [encodeWord, decodeWord]
  | ldReg | or | and | xor | addReg | sub | shr | shl =>
    simp [encodeWord, decodeWord_of_class8, decodeClass8]
  | skp | sknp => simp [encodeWord, decodeWord_of_classE, decodeClassE]
  | ldVxDt | ldVxK | ldDtVx | ldStVx | addI | ldF | bcd | stor | load =>
    simp [encodeWord, decodeWord_of_classF, decodeClassF]

end Sys2Proof

namespace Sys2Proof.Machine

/-- SYS, in every state, is reported as UnsupportedOpcode and skipped (R101, R212). -/
theorem exec_sys (nnn : Addr) (s : State) :
    exec (.sys nnn) s = .next { s with pc := s.pc + 2, outcome := some (.error .unsupportedOpcode) } :=
  congrArg Host.Outcome.next (s.raise_nonFatal .unsupportedOpcode rfl)

end Sys2Proof.Machine

open Sys2Proof Sys2Proof.Machine

/-- Settles O3: the two fixed words compute; any other word of class 0 is the word of a well-formed SYS. -/
theorem classZeroIsClsRetOrSys : Obligations.ClassZeroIsClsRetOrSys := by
  unfold Obligations.ClassZeroIsClsRetOrSys
  refine ⟨decodeWord_encodeWord .cls rfl, decodeWord_encodeWord .ret rfl, fun nnn hcls hret => ⟨?_, exec_sys nnn⟩⟩
  exact decodeWord_encodeWord (.sys nnn) (by simp [Instr.wellFormed, isMachineCallAddr, hcls, hret])

/-- Settles O4: each word is the word of its instruction, which the decoder reads back. -/
theorem singleInstructionClassesDecode : Obligations.SingleInstructionClassesDecode := by
  unfold Obligations.SingleInstructionClassesDecode
  intro nnn x y n nn
  exact ⟨decodeWord_encodeWord (.jp nnn) rfl, decodeWord_encodeWord (.call nnn) rfl,
    decodeWord_encodeWord (.seImm x nn) rfl, decodeWord_encodeWord (.sneImm x nn) rfl,
    decodeWord_encodeWord (.ldImm x nn) rfl, decodeWord_encodeWord (.addImm x nn) rfl,
    decodeWord_encodeWord (.ldI nnn) rfl, decodeWord_encodeWord (.jpV0 nnn) rfl,
    decodeWord_encodeWord (.rnd x nn) rfl, decodeWord_encodeWord (.drw x y n) rfl⟩

/-- Settles O5: an admitted n or nn gives the word of its instruction; any other one falls through its class's dispatch. -/
theorem classesEightEAndFDispatch : Obligations.ClassesEightEAndFDispatch := by
  unfold Obligations.ClassesEightEAndFDispatch
  intro x y n nn
  refine ⟨⟨decodeWord_encodeWord (.ldReg x y) rfl, decodeWord_encodeWord (.or x y) rfl,
      decodeWord_encodeWord (.and x y) rfl, decodeWord_encodeWord (.xor x y) rfl,
      decodeWord_encodeWord (.addReg x y) rfl, decodeWord_encodeWord (.sub x y) rfl,
      decodeWord_encodeWord (.shr x y) rfl, decodeWord_encodeWord (.shl x y) rfl⟩, ?class8,
    decodeWord_encodeWord (.skp x) rfl, decodeWord_encodeWord (.sknp x) rfl, ?classE,
    ⟨decodeWord_encodeWord (.ldVxDt x) rfl, decodeWord_encodeWord (.ldVxK x) rfl,
      decodeWord_encodeWord (.ldDtVx x) rfl, decodeWord_encodeWord (.ldStVx x) rfl,
      decodeWord_encodeWord (.addI x) rfl, decodeWord_encodeWord (.ldF x) rfl,
      decodeWord_encodeWord (.bcd x) rfl, decodeWord_encodeWord (.stor x) rfl,
      decodeWord_encodeWord (.load x) rfl⟩, ?classF⟩
  case class8 =>
    intro hn
    have unlisted : ∀ n : Nibble, n ∈ [0x7#4, 0x8#4, 0x9#4, 0xA#4, 0xB#4, 0xC#4, 0xD#4, 0xF#4] →
        n ∉ [0x0#4, 0x1#4, 0x2#4, 0x3#4, 0x4#4, 0x5#4, 0x6#4, 0xE#4] := by decide
    exact (decodeWord_of_class8 (fieldClass_layoutXYN _ x y n)).trans
      (decodeClass8_eq_none (by rw [fieldN_layoutXYN]; exact unlisted n hn))
  case classE =>
    intro hnn
    exact (decodeWord_of_classE (fieldClass_layoutXNN _ x nn)).trans
      (decodeClassE_eq_none (by simpa using hnn))
  case classF =>
    intro hnn
    exact (decodeWord_of_classF (fieldClass_layoutXNN _ x nn)).trans
      (decodeClassF_eq_none (by rwa [fieldNN_layoutXNN]))
end

section
/-! The skips (R110): what a skip by a decided condition leaves, said once, and the immediate skips in every state. -/

namespace Sys2Proof.Machine

/-- A skip whose Boolean test decides `p` moves `pc` by 4 or 2 as `p` holds or not, and changes nothing else (R110). -/
theorem State.skipIf_of_iff {c : Bool} {p : Prop} [Decidable p] (h : c = true ↔ p) (s : State) :
    s.skipIf c = { s with pc := if p then s.pc + 4 else s.pc + 2, outcome := some .advanced } :=
  congrArg (State.jump · s) (if_congr h rfl rfl)

/-- SE_IMM skips exactly when `V[x]` is `nn` (R111). -/
theorem exec_seImm (x : Nibble) (nn : Byte) (s : State) :
    exec (.seImm x nn) s = .next { s with
      pc := if s.reg x = nn then s.pc + 4 else s.pc + 2, outcome := some .advanced } :=
  congrArg Host.Outcome.next (s.skipIf_of_iff beq_iff_eq)

/-- SNE_IMM skips exactly when `V[x]` is not `nn` (R112). -/
theorem exec_sneImm (x : Nibble) (nn : Byte) (s : State) :
    exec (.sneImm x nn) s = .next { s with
      pc := if s.reg x ≠ nn then s.pc + 4 else s.pc + 2, outcome := some .advanced } :=
  congrArg Host.Outcome.next (s.skipIf_of_iff bne_iff_ne)

end Sys2Proof.Machine

open Sys2Proof Sys2Proof.Machine

/-- Settles O18: each word is the word of its instruction, and each instruction is a skip by its own comparison. -/
theorem immediateSkipsMoveThePc : Obligations.ImmediateSkipsMoveThePc := by
  unfold Obligations.ImmediateSkipsMoveThePc
  intro s x nn
  exact ⟨⟨decodeWord_encodeWord (.seImm x nn) rfl, exec_seImm x nn s⟩,
    ⟨decodeWord_encodeWord (.sneImm x nn) rfl, exec_sneImm x nn s⟩⟩
end

section
/-! Immediates (R121 to R123): what LD_IMM, ADD_IMM and LD_I leave, in every state. -/

namespace Sys2Proof.Machine

/-- The sum's result, spelt as the spec does: reduced modulo 256 (R122). -/
theorem addResult_eq_ofNat_mod (a b : Byte) : addResult a b = BitVec.ofNat 8 ((a.toNat + b.toNat) % 256) :=
  BitVec.eq_of_toNat_eq (by simp [addResult])

/-- LD_IMM writes `nn` to `V[x]` (R121). -/
theorem exec_ldImm (x : Nibble) (nn : Byte) (s : State) :
    exec (.ldImm x nn) s = .next { s with
      V := s.V.set x.toNat nn x.isLt, pc := s.pc + 2, outcome := some .advanced } := rfl

/-- ADD_IMM adds `nn` to `V[x]` modulo 256 and has no flag (R122). -/
theorem exec_addImm (x : Nibble) (nn : Byte) (s : State) :
    exec (.addImm x nn) s = .next { s with
      V := s.V.set x.toNat (BitVec.ofNat 8 (((s.reg x).toNat + nn.toNat) % 256)) x.isLt
      pc := s.pc + 2, outcome := some .advanced } :=
  congrArg (fun b => Host.Outcome.next (s.setReg x b).advance) (addResult_eq_ofNat_mod (s.reg x) nn)

/-- LD_I writes the address field to `I`, the upper four bits 0 (R123). -/
theorem exec_ldI (nnn : Addr) (s : State) :
    exec (.ldI nnn) s = .next { s with
      I := BitVec.ofNat 16 nnn.toNat, pc := s.pc + 2, outcome := some .advanced } :=
  congrArg (fun w => Host.Outcome.next (State.advance { s with I := w })) (zextAddr_eq_ofNat nnn)

end Sys2Proof.Machine

open Sys2Proof Sys2Proof.Machine

/-- Settles O20: each word is the word of its instruction, and each instruction's one write is the one the spec states. -/
theorem immediatesWriteTheirRegister : Obligations.ImmediatesWriteTheirRegister := by
  unfold Obligations.ImmediatesWriteTheirRegister
  intro s x nn nnn
  exact ⟨⟨decodeWord_encodeWord (.ldImm x nn) rfl, exec_ldImm x nn s⟩,
    ⟨decodeWord_encodeWord (.addImm x nn) rfl, exec_addImm x nn s⟩,
    ⟨decodeWord_encodeWord (.ldI nnn) rfl, exec_ldI nnn s⟩⟩
end

section
/-! Copy and logic on registers (R131 to R134): each is one register write and the default advance. -/

namespace Sys2Proof.Machine

/-- A register write followed by the default advance, as one update of the state: `VF` is written only if it is `V[x]`
(R11, R86). -/
theorem State.advance_setReg (x : Nibble) (b : Byte) (s : State) :
    (s.setReg x b).advance =
      { s with V := s.V.set x.toNat b x.isLt, pc := s.pc + 2, outcome := some .advanced } := rfl

/-- LD_REG copies `V[y]` to `V[x]` (R131). -/
theorem exec_ldReg (x y : Nibble) (s : State) :
    exec (.ldReg x y) s = .next { s with
      V := s.V.set x.toNat (s.reg y) x.isLt, pc := s.pc + 2, outcome := some .advanced } :=
  congrArg Host.Outcome.next (s.advance_setReg x (s.reg y))

/-- OR writes the bitwise or to `V[x]` and has no flag (R132). -/
theorem exec_or (x y : Nibble) (s : State) :
    exec (.or x y) s = .next { s with
      V := s.V.set x.toNat (s.reg x ||| s.reg y) x.isLt, pc := s.pc + 2, outcome := some .advanced } :=
  congrArg Host.Outcome.next (s.advance_setReg x (s.reg x ||| s.reg y))

/-- AND writes the bitwise and to `V[x]` and has no flag (R133). -/
theorem exec_and (x y : Nibble) (s : State) :
    exec (.and x y) s = .next { s with
      V := s.V.set x.toNat (s.reg x &&& s.reg y) x.isLt, pc := s.pc + 2, outcome := some .advanced } :=
  congrArg Host.Outcome.next (s.advance_setReg x (s.reg x &&& s.reg y))

/-- XOR writes the bitwise exclusive or to `V[x]` and has no flag (R134). -/
theorem exec_xor (x y : Nibble) (s : State) :
    exec (.xor x y) s = .next { s with
      V := s.V.set x.toNat (s.reg x ^^^ s.reg y) x.isLt, pc := s.pc + 2, outcome := some .advanced } :=
  congrArg Host.Outcome.next (s.advance_setReg x (s.reg x ^^^ s.reg y))

end Sys2Proof.Machine

open Sys2Proof Sys2Proof.Machine

/-- Settles O22: each word is the word of its instruction, and each instruction is one register write and the advance. -/
theorem copyAndLogicWriteOnlyTheirRegister : Obligations.CopyAndLogicWriteOnlyTheirRegister := by
  unfold Obligations.CopyAndLogicWriteOnlyTheirRegister
  intro s x y
  exact ⟨⟨decodeWord_encodeWord (.ldReg x y) rfl, exec_ldReg x y s⟩,
    ⟨decodeWord_encodeWord (.or x y) rfl, exec_or x y s⟩,
    ⟨decodeWord_encodeWord (.and x y) rfl, exec_and x y s⟩,
    ⟨decodeWord_encodeWord (.xor x y) rfl, exec_xor x y s⟩⟩
end

section
/-! CLS (R150): the framebuffer is replaced by the cleared one, `dirty` is set unconditionally, and `pc` advances. -/

namespace Sys2Proof.Machine

/-- CLS clears the framebuffer and sets `dirty` in every state, an all-0 framebuffer included (R150). -/
theorem exec_cls (s : State) :
    exec .cls s = .next { s with
      fb := Framebuffer.clear, dirty := true, pc := s.pc + 2, outcome := some .advanced } := rfl

end Sys2Proof.Machine

open Sys2Proof Sys2Proof.Machine

/-- Settles O25: the decoder reads CLS back from its own word, and the framebuffer CLS answers is the cleared one. -/
theorem clsClearsTheDisplay : Obligations.ClsClearsTheDisplay := by
  unfold Obligations.ClsClearsTheDisplay
  exact ⟨decodeWord_encodeWord .cls rfl, fun s => ⟨_, exec_cls s, Framebuffer.pixel_clear, rfl⟩⟩
end

section
/-! Timer instructions (R185 to R187): each moves one value between `V[x]` and a timer and advances; none counts. -/

namespace Sys2Proof.Machine

/-- LD_VX_DT copies the delay timer's count to `V[x]` and leaves the timer alone (R185). -/
theorem exec_ldVxDt (x : Nibble) (s : State) :
    exec (.ldVxDt x) s = .next { s with
      V := s.V.set x.toNat s.DT x.isLt, pc := s.pc + 2, outcome := some .advanced } :=
  congrArg Host.Outcome.next (s.advance_setReg x s.DT)

/-- LD_DT_VX replaces the delay timer's count by `V[x]`, whether or not the timer is running (R186). -/
theorem exec_ldDtVx (x : Nibble) (s : State) :
    exec (.ldDtVx x) s = .next { s with DT := s.reg x, pc := s.pc + 2, outcome := some .advanced } := rfl

/-- LD_ST_VX replaces the sound timer's count by `V[x]`, whether or not the timer is running (R187). -/
theorem exec_ldStVx (x : Nibble) (s : State) :
    exec (.ldStVx x) s = .next { s with ST := s.reg x, pc := s.pc + 2, outcome := some .advanced } := rfl

end Sys2Proof.Machine

open Sys2Proof Sys2Proof.Machine

/-- Settles O33: each word is the word of its instruction, and each instruction is one move of a count and the advance. -/
theorem timerInstructionsMoveTheCount : Obligations.TimerInstructionsMoveTheCount := by
  unfold Obligations.TimerInstructionsMoveTheCount
  intro s x
  exact ⟨⟨decodeWord_encodeWord (.ldVxDt x) rfl, exec_ldVxDt x s⟩,
    ⟨decodeWord_encodeWord (.ldDtVx x) rfl, exec_ldDtVx x s⟩,
    ⟨decodeWord_encodeWord (.ldStVx x) rfl, exec_ldStVx x s⟩⟩
end

section
/-! The decoder, inverted (R60 to R68, R73): a word is the layout of its own fields, so it decodes to an instruction exactly
when it is that instruction's word. The round trips, the set of unknown words and the opcode map are read off from this. -/

namespace Sys2Proof

/-! ### A word is the layout of its fields (R61) -/

theorem layoutNNN_fields (w : Word) : layoutNNN (fieldClass w) (fieldNNN w) = w := by
  refine BitVec.eq_of_getLsbD_eq fun i hi => ?_
  simp only [bits_layoutNNN, fieldClass, fieldNNN, BitVec.getLsbD_extractLsb']
  split
  · simp [*]
  · simp [show i - 12 < 4 by omega, show 12 + (i - 12) = i by omega]

theorem layoutXNN_fields (w : Word) : layoutXNN (fieldClass w) (fieldX w) (fieldNN w) = w := by
  refine BitVec.eq_of_getLsbD_eq fun i hi => ?_
  simp only [bits_layoutXNN, fieldClass, fieldX, fieldNN, BitVec.getLsbD_extractLsb']
  split
  · simp [*]
  · split
    · simp [show i - 8 < 4 by omega, show 8 + (i - 8) = i by omega]
    · simp [show i - 12 < 4 by omega, show 12 + (i - 12) = i by omega]

theorem layoutXYN_fields (w : Word) : layoutXYN (fieldClass w) (fieldX w) (fieldY w) (fieldN w) = w := by
  refine BitVec.eq_of_getLsbD_eq fun i hi => ?_
  simp only [bits_layoutXYN, fieldClass, fieldX, fieldY, fieldN, BitVec.getLsbD_extractLsb']
  split
  · simp [*]
  · split
    · simp [show i - 4 < 4 by omega, show 4 + (i - 4) = i by omega]
    · split
      · simp [show i - 8 < 4 by omega, show 8 + (i - 8) = i by omega]
      · simp [show i - 12 < 4 by omega, show 12 + (i - 12) = i by omega]

theorem eq_layoutNNN {w : Word} {c : Nibble} (hc : fieldClass w = c) : layoutNNN c (fieldNNN w) = w :=
  hc ▸ layoutNNN_fields w

theorem eq_layoutXNN {w : Word} {c : Nibble} (hc : fieldClass w = c) : layoutXNN c (fieldX w) (fieldNN w) = w :=
  hc ▸ layoutXNN_fields w

theorem eq_layoutXK {w : Word} {c : Nibble} {nn : Byte} (hc : fieldClass w = c) (hnn : fieldNN w = nn) :
    layoutXNN c (fieldX w) nn = w :=
  hnn ▸ eq_layoutXNN hc

theorem eq_layoutXYN {w : Word} {c : Nibble} (hc : fieldClass w = c) :
    layoutXYN c (fieldX w) (fieldY w) (fieldN w) = w :=
  hc ▸ layoutXYN_fields w

theorem eq_layoutXY {w : Word} {c n : Nibble} (hc : fieldClass w = c) (hn : fieldN w = n) :
    layoutXYN c (fieldX w) (fieldY w) n = w :=
  hn ▸ eq_layoutXYN hc

/-! ### What a word decodes to -/

/-- Every word of class 0 but the two fixed ones is the word of a well-formed SYS (R64). -/
theorem wellFormed_sys {w : Word} (hw : layoutNNN 0x0#4 (fieldNNN w) = w) (hcls : w ≠ 0x00E0#16) (hret : w ≠ 0x00EE#16) :
    (Instr.sys (fieldNNN w)).wellFormed = true := by
  simp only [Instr.wellFormed, isMachineCallAddr, Bool.and_eq_true, bne_iff_ne]
  exact ⟨fun e => hcls (by rw [← hw, e]; rfl), fun e => hret (by rw [← hw, e]; rfl)⟩

/-- A word of class 0 is the word of what it decodes to (R64). -/
theorem encodeWord_decodeClass0 {w : Word} (hc : fieldClass w = 0x0#4) :
    encodeWord (decodeClass0 w) = w ∧ (decodeClass0 w).wellFormed = true := by
  unfold decodeClass0
  split
  · next h => exact ⟨h.symm, rfl⟩
  · next hcls =>
    split
    · next h => exact ⟨h.symm, rfl⟩
    · next hret => exact ⟨eq_layoutNNN hc, wellFormed_sys (eq_layoutNNN hc) hcls hret⟩

/-- A word of class 8 is the word of what it decodes to (R67). -/
theorem encodeWord_of_decodeClass8 {w : Word} {i : Instr} (hc : fieldClass w = 0x8#4) (h : decodeClass8 w = some i) :
    encodeWord i = w ∧ i.wellFormed = true := by
  unfold decodeClass8 at h
  split at h
  case h_9 => cases h
  all_goals
    next hn =>
    obtain rfl := Option.some.inj h
    exact ⟨eq_layoutXY hc (BitVec.eq_of_toNat_eq hn), rfl⟩

/-- A word of class E is the word of what it decodes to (R67). -/
theorem encodeWord_of_decodeClassE {w : Word} {i : Instr} (hc : fieldClass w = 0xE#4) (h : decodeClassE w = some i) :
    encodeWord i = w ∧ i.wellFormed = true := by
  unfold decodeClassE at h
  split at h
  case h_3 => cases h
  all_goals
    next hnn =>
    obtain rfl := Option.some.inj h
    exact ⟨eq_layoutXK hc (BitVec.eq_of_toNat_eq hnn), rfl⟩

/-- A word of class F is the word of what it decodes to (R67). -/
theorem encodeWord_of_decodeClassF {w : Word} {i : Instr} (hc : fieldClass w = 0xF#4) (h : decodeClassF w = some i) :
    encodeWord i = w ∧ i.wellFormed = true := by
  unfold decodeClassF at h
  split at h
  case h_10 => cases h
  all_goals
    next hnn =>
    obtain rfl := Option.some.inj h
    exact ⟨eq_layoutXK hc (BitVec.eq_of_toNat_eq hnn), rfl⟩

/-- A word decodes to an instruction only if it is that instruction's word and the instruction is well-formed: the fields a
class reads are all its bits, the checked ones among them (R63 to R67). -/
theorem encodeWord_of_decodeWord {w : Word} {i : Instr} (h : decodeWord w = some i) :
    encodeWord i = w ∧ i.wellFormed = true := by
  unfold decodeWord at h
  split at h
  case h_1 hc =>
    obtain rfl := Option.some.inj h
    exact encodeWord_decodeClass0 (BitVec.eq_of_toNat_eq hc)
  case h_2 hc | h_3 hc | h_11 hc | h_12 hc =>
    obtain rfl := Option.some.inj h
    exact ⟨eq_layoutNNN (BitVec.eq_of_toNat_eq hc), rfl⟩
  case h_4 hc | h_5 hc | h_7 hc | h_8 hc | h_13 hc =>
    obtain rfl := Option.some.inj h
    exact ⟨eq_layoutXNN (BitVec.eq_of_toNat_eq hc), rfl⟩
  case h_6 hc | h_10 hc =>
    obtain ⟨hn, hi⟩ := Option.ite_none_right_eq_some.1 h
    obtain rfl := Option.some.inj hi
    exact ⟨eq_layoutXY (BitVec.eq_of_toNat_eq hc) hn, rfl⟩
  case h_9 hc => exact encodeWord_of_decodeClass8 (BitVec.eq_of_toNat_eq hc) h
  case h_14 hc =>
    obtain rfl := Option.some.inj h
    exact ⟨eq_layoutXYN (BitVec.eq_of_toNat_eq hc), rfl⟩
  case h_15 hc => exact encodeWord_of_decodeClassE (BitVec.eq_of_toNat_eq hc) h
  case h_16 =>
    have hlt := (fieldClass w).isLt
    have hc : (fieldClass w).toNat = 0xF := by grind
    exact encodeWord_of_decodeClassF (BitVec.eq_of_toNat_eq hc) h

/-! ### The words that decode to nothing (R68) -/

theorem decodeClass8_eq_none_iff (w : Word) :
    decodeClass8 w = none ↔ fieldN w ∉ [0x0#4, 0x1#4, 0x2#4, 0x3#4, 0x4#4, 0x5#4, 0x6#4, 0xE#4] := by
  refine ⟨fun h hn => ?_, decodeClass8_eq_none⟩
  simp only [List.mem_cons, List.not_mem_nil, or_false] at hn
  rcases hn with e | e | e | e | e | e | e | e <;> simp [decodeClass8, e] at h

theorem decodeClassE_eq_none_iff (w : Word) : decodeClassE w = none ↔ fieldNN w ∉ [0x9E#8, 0xA1#8] := by
  refine ⟨fun h hn => ?_, decodeClassE_eq_none⟩
  simp only [List.mem_cons, List.not_mem_nil, or_false] at hn
  rcases hn with e | e <;> simp [decodeClassE, e] at h

theorem decodeClassF_eq_none_iff (w : Word) :
    decodeClassF w = none ↔
      fieldNN w ∉ [0x07#8, 0x0A#8, 0x15#8, 0x18#8, 0x1E#8, 0x29#8, 0x33#8, 0x55#8, 0x65#8] := by
  refine ⟨fun h hn => ?_, decodeClassF_eq_none⟩
  simp only [List.mem_cons, List.not_mem_nil, or_false] at hn
  rcases hn with e | e | e | e | e | e | e | e | e <;> simp [decodeClassF, e] at h

theorem decodeWord_eq_none_iff (w : Word) : decodeWord w = none ↔
    ((fieldClass w = 0x5#4 ∨ fieldClass w = 0x9#4) ∧ fieldN w ≠ 0) ∨
    (fieldClass w = 0x8#4 ∧ decodeClass8 w = none) ∨
    (fieldClass w = 0xE#4 ∧ decodeClassE w = none) ∨
    (fieldClass w = 0xF#4 ∧ decodeClassF w = none) := by
  unfold decodeWord
  split
  case h_16 =>
    have hlt := (fieldClass w).isLt
    have hc : (fieldClass w).toNat = 0xF := by grind
    simp [← BitVec.toNat_inj, hc]
  all_goals
    next hc => simp [← BitVec.toNat_inj, hc]

/-! ### Fields under shifts and masks (R61) -/

theorem setWidth_injective {m n : Nat} (h : m ≤ n) :
    Function.Injective (BitVec.setWidth n : BitVec m → BitVec n) := fun a b e => by
  simpa [h] using congrArg (BitVec.setWidth m) e

theorem shiftRight_12 (w : Word) : w >>> 12 = (fieldClass w).setWidth 16 := by
  refine BitVec.eq_of_getLsbD_eq fun i hi => ?_
  have hw : ¬ i < 4 → w.getLsbD (12 + i) = false := fun h => BitVec.getLsbD_of_ge w (12 + i) (by omega)
  by_cases h : i < 4 <;> simp [fieldClass, h, hi, hw]

theorem and_0x000F (w : Word) : w &&& 0x000F#16 = (fieldN w).setWidth 16 := by
  refine BitVec.eq_of_getLsbD_eq fun i hi => ?_
  simp only [fieldN, BitVec.getLsbD_and, BitVec.getLsbD_setWidth, BitVec.getLsbD_extractLsb']
  interval_cases i <;> simp

theorem and_0x00FF (w : Word) : w &&& 0x00FF#16 = (fieldNN w).setWidth 16 := by
  refine BitVec.eq_of_getLsbD_eq fun i hi => ?_
  simp only [fieldNN, BitVec.getLsbD_and, BitVec.getLsbD_setWidth, BitVec.getLsbD_extractLsb']
  interval_cases i <;> simp

/-- The class of a word, tested by a shift (R68). -/
theorem shiftRight_12_eq_iff (w : Word) (c : Nibble) : w >>> 12 = c.setWidth 16 ↔ fieldClass w = c := by
  rw [shiftRight_12, (setWidth_injective (by decide)).eq_iff]

/-- The low nibble of a word, tested by a mask (R68). -/
theorem and_0x000F_mem_iff (w : Word) (l : List Nibble) :
    w &&& 0x000F#16 ∈ l.map (BitVec.setWidth 16) ↔ fieldN w ∈ l := by
  rw [and_0x000F, List.mem_map_of_injective (setWidth_injective (by decide))]

/-- The low byte of a word, tested by a mask (R68). -/
theorem and_0x00FF_mem_iff (w : Word) (l : List Byte) :
    w &&& 0x00FF#16 ∈ l.map (BitVec.setWidth 16) ↔ fieldNN w ∈ l := by
  rw [and_0x00FF, List.mem_map_of_injective (setWidth_injective (by decide))]

/-! ### The opcode map (R73) -/

/-- The word of every instruction matches the instruction's row. -/
theorem encodeWord_match (i : Instr) : encodeWord i &&& (opcodeRow i).mask = (opcodeRow i).pattern := by
  cases i with
  | cls => exact Laws.EncodedInItsRow.cls
  | ret => exact Laws.EncodedInItsRow.ret
  | sys | jp | call | ldI | jpV0 => exact (Laws.EncodedInItsRow.layoutNNN_row _ _).trans rfl
  | seImm | sneImm | ldImm | addImm | rnd => exact (Laws.EncodedInItsRow.layoutXNN_row _ _ _).trans rfl
  | seReg | sneReg | ldReg | or | and | xor | addReg | sub | shr | shl =>
    exact (Laws.EncodedInItsRow.layoutXY_row _ _ _ _).trans rfl
  | drw => exact (Laws.EncodedInItsRow.layoutXYN_row _ _ _ _).trans rfl
  | skp | sknp | ldVxDt | ldVxK | ldDtVx | ldStVx | addI | ldF | bcd | stor | load =>
    exact (Laws.EncodedInItsRow.layoutXK_row _ _ _).trans rfl

open Laws.EncodedInItsRow in
/-- A word that matches a row of format NNN is laid out with the row's class. -/
theorem layoutNNN_of_match {w : Word} {c : Nibble} (h : w &&& 0xF000#16 = layoutNNN c 0) :
    layoutNNN c (fieldNNN w) = w := by
  rw [← layoutNNN_fields w, layoutNNN_row] at h
  exact eq_layoutNNN (by simpa using congrArg fieldClass h)

open Laws.EncodedInItsRow in
/-- A word that matches a row of format XNN is laid out with the row's class. -/
theorem layoutXNN_of_match {w : Word} {c : Nibble} (h : w &&& 0xF000#16 = layoutXNN c 0 0) :
    layoutXNN c (fieldX w) (fieldNN w) = w := by
  rw [← layoutXNN_fields w, layoutXNN_row] at h
  exact eq_layoutXNN (by simpa using congrArg fieldClass h)

open Laws.EncodedInItsRow in
/-- A word that matches a row of format XYN is laid out with the row's class. -/
theorem layoutXYN_of_match {w : Word} {c : Nibble} (h : w &&& 0xF000#16 = layoutXYN c 0 0 0) :
    layoutXYN c (fieldX w) (fieldY w) (fieldN w) = w := by
  rw [← layoutXYN_fields w, layoutXYN_row] at h
  exact eq_layoutXYN (by simpa using congrArg fieldClass h)

open Laws.EncodedInItsRow in
/-- A word that matches a row of format XY is laid out with the row's class and low nibble. -/
theorem layoutXY_of_match {w : Word} {c n : Nibble} (h : w &&& 0xF00F#16 = layoutXYN c 0 0 n) :
    layoutXYN c (fieldX w) (fieldY w) n = w := by
  rw [← layoutXYN_fields w, layoutXY_row] at h
  exact eq_layoutXY (by simpa using congrArg fieldClass h) (by simpa using congrArg fieldN h)

open Laws.EncodedInItsRow in
/-- A word that matches a row of format XK is laid out with the row's class and low byte. -/
theorem layoutXK_of_match {w : Word} {c : Nibble} {nn : Byte} (h : w &&& 0xF0FF#16 = layoutXNN c 0 nn) :
    layoutXNN c (fieldX w) nn = w := by
  rw [← layoutXNN_fields w, layoutXK_row] at h
  exact eq_layoutXK (by simpa using congrArg fieldClass h) (by simpa using congrArg fieldNN h)

/-- A word that matches a row, where the fixed words are left to their own rows, is the word of an instruction of that row:
the fields the mask leaves free are its operands. -/
theorem exists_encodeWord_of_match {w : Word} {i : Instr} (h : w &&& (opcodeRow i).mask = (opcodeRow i).pattern)
    (hfix : (w = 0x00E0#16 ∨ w = 0x00EE#16) → (opcodeRow i).mask = 0xFFFF#16) :
    ∃ j, encodeWord j = w ∧ j.wellFormed = true ∧ opcodeRow j = opcodeRow i := by
  cases i with
  | cls => exact ⟨.cls, h.symm.trans BitVec.and_allOnes, rfl, rfl⟩
  | ret => exact ⟨.ret, h.symm.trans BitVec.and_allOnes, rfl, rfl⟩
  | sys =>
    have hmask : ¬(w = 0x00E0#16 ∨ w = 0x00EE#16) := fun e => absurd (hfix e) (show 0xF000#16 ≠ 0xFFFF#16 by decide)
    have hw : layoutNNN 0x0#4 (fieldNNN w) = w := layoutNNN_of_match h
    exact ⟨.sys _, hw, wellFormed_sys hw (fun e => hmask (.inl e)) (fun e => hmask (.inr e)), rfl⟩
  | jp => exact ⟨.jp _, layoutNNN_of_match h, rfl, rfl⟩
  | call => exact ⟨.call _, layoutNNN_of_match h, rfl, rfl⟩
  | ldI => exact ⟨.ldI _, layoutNNN_of_match h, rfl, rfl⟩
  | jpV0 => exact ⟨.jpV0 _, layoutNNN_of_match h, rfl, rfl⟩
  | seImm => exact ⟨.seImm _ _, layoutXNN_of_match h, rfl, rfl⟩
  | sneImm => exact ⟨.sneImm _ _, layoutXNN_of_match h, rfl, rfl⟩
  | ldImm => exact ⟨.ldImm _ _, layoutXNN_of_match h, rfl, rfl⟩
  | addImm => exact ⟨.addImm _ _, layoutXNN_of_match h, rfl, rfl⟩
  | rnd => exact ⟨.rnd _ _, layoutXNN_of_match h, rfl, rfl⟩
  | seReg => exact ⟨.seReg _ _, layoutXY_of_match h, rfl, rfl⟩
  | sneReg => exact ⟨.sneReg _ _, layoutXY_of_match h, rfl, rfl⟩
  | ldReg => exact ⟨.ldReg _ _, layoutXY_of_match h, rfl, rfl⟩
  | or => exact ⟨.or _ _, layoutXY_of_match h, rfl, rfl⟩
  | and => exact ⟨.and _ _, layoutXY_of_match h, rfl, rfl⟩
  | xor => exact ⟨.xor _ _, layoutXY_of_match h, rfl, rfl⟩
  | addReg => exact ⟨.addReg _ _, layoutXY_of_match h, rfl, rfl⟩
  | sub => exact ⟨.sub _ _, layoutXY_of_match h, rfl, rfl⟩
  | shr => exact ⟨.shr _ _, layoutXY_of_match h, rfl, rfl⟩
  | shl => exact ⟨.shl _ _, layoutXY_of_match h, rfl, rfl⟩
  | drw => exact ⟨.drw _ _ _, layoutXYN_of_match h, rfl, rfl⟩
  | skp => exact ⟨.skp _, layoutXK_of_match h, rfl, rfl⟩
  | sknp => exact ⟨.sknp _, layoutXK_of_match h, rfl, rfl⟩
  | ldVxDt => exact ⟨.ldVxDt _, layoutXK_of_match h, rfl, rfl⟩
  | ldVxK => exact ⟨.ldVxK _, layoutXK_of_match h, rfl, rfl⟩
  | ldDtVx => exact ⟨.ldDtVx _, layoutXK_of_match h, rfl, rfl⟩
  | ldStVx => exact ⟨.ldStVx _, layoutXK_of_match h, rfl, rfl⟩
  | addI => exact ⟨.addI _, layoutXK_of_match h, rfl, rfl⟩
  | ldF => exact ⟨.ldF _, layoutXK_of_match h, rfl, rfl⟩
  | bcd => exact ⟨.bcd _, layoutXK_of_match h, rfl, rfl⟩
  | stor => exact ⟨.stor _, layoutXK_of_match h, rfl, rfl⟩
  | load => exact ⟨.load _, layoutXK_of_match h, rfl, rfl⟩

end Sys2Proof

open Sys2Proof Sys2Proof.Machine

/-- Settles O1: the decoder on the encoded bytes is the decoder on the encoded word, which reads the instruction back. -/
theorem decodeOfEncodeIsTheInstruction : Obligations.DecodeOfEncodeIsTheInstruction := by
  unfold Obligations.DecodeOfEncodeIsTheInstruction
  intro i rest hi
  rw [encode, decode_bytesOfWord, decodeWord_encodeWord i hi]

/-- Settles O2: the decoder, inverted. -/
theorem encodeOfDecodeIsTheWord : Obligations.EncodeOfDecodeIsTheWord := by
  unfold Obligations.EncodeOfDecodeIsTheWord
  exact fun w i => encodeWord_of_decodeWord

/-- Settles O6: class by class, the fields the decoder rejects, tested by the shifts and masks of R68. -/
theorem unknownWordsAreExactlyTheListedSets : Obligations.UnknownWordsAreExactlyTheListedSets := by
  unfold Obligations.UnknownWordsAreExactlyTheListedSets
  intro w
  have unlisted : ∀ n : Nibble, n ∉ [0x0#4, 0x1#4, 0x2#4, 0x3#4, 0x4#4, 0x5#4, 0x6#4, 0xE#4] ↔
      n ∈ [0x7#4, 0x8#4, 0x9#4, 0xA#4, 0xB#4, 0xC#4, 0xD#4, 0xF#4] := by decide
  have low : w &&& 0x000F#16 ≠ 0 ↔ fieldN w ≠ 0 := by
    simpa using not_congr (and_0x000F_mem_iff w [0])
  rw [decodeWord_eq_none_iff, decodeClass8_eq_none_iff, decodeClassE_eq_none_iff, decodeClassF_eq_none_iff, unlisted,
    low, ← and_0x000F_mem_iff, ← and_0x00FF_mem_iff, ← and_0x00FF_mem_iff]
  simp only [← shiftRight_12_eq_iff]
  rfl

/-- Settles O7: a word that decodes is the word of its instruction, which matches the row; and a word that matches a row is
the word of an instruction of that row. -/
theorem decoderAgreesWithTheOpcodeMap : Obligations.DecoderAgreesWithTheOpcodeMap := by
  unfold Obligations.DecoderAgreesWithTheOpcodeMap
  refine ⟨fun w i h => ?_, fun w i h hfix => ?_⟩
  · obtain ⟨rfl, -⟩ := encodeWord_of_decodeWord h
    exact encodeWord_match i
  · obtain ⟨j, rfl, hj, hrow⟩ := exists_encodeWord_of_match h hfix
    exact ⟨j, decodeWord_encodeWord j hj, hrow⟩

/-- Settles O8: each word is the word of its instruction, which the decoder reads back. -/
theorem wordsOfEveryFamilyDecode : Obligations.WordsOfEveryFamilyDecode := by
  unfold Obligations.WordsOfEveryFamilyDecode
  exact ⟨decodeWord_encodeWord (.call 0xABC) rfl, decodeWord_encodeWord (.seReg 1 2) rfl,
    decodeWord_encodeWord (.ldImm 0xA 0x2B) rfl, decodeWord_encodeWord (.shl 0xA 0xB) rfl,
    decodeWord_encodeWord (.drw 5 0xA 3) rfl, decodeWord_encodeWord (.skp 0xF) rfl,
    decodeWord_encodeWord (.ldVxDt 5) rfl, decodeWord_encodeWord (.stor 3) rfl⟩
end

section
/-! Control transfer (R100 to R104): RET and CALL with a slot to take or to fill and without one, the two jumps, and that a
RET undoes a CALL. -/

namespace Sys2Proof.Machine

/-- RET with an occupied slot pops the newest entry into `pc` (R100). -/
theorem exec_ret_pop (s : State) (h : 0 < s.sp.val) :
    exec .ret s = .next { s with
      sp := ⟨s.sp.val - 1, by omega⟩, pc := s.stack[s.sp.val - 1], outcome := some .advanced } := by
  obtain ⟨_, e⟩ := s.pop_cases.resolve_right fun h0 => Nat.ne_of_gt h h0.1
  simp only [exec, execRet, e]
  rfl

/-- RET with an empty stack raises StackUnderflow (R100, R214). -/
theorem exec_ret_empty (s : State) (h : s.sp.val = 0) : exec .ret s = .next (s.raise .stackUnderflow) := by
  obtain ⟨_, e⟩ := s.pop_cases.resolve_left fun ⟨h0, _⟩ => Nat.ne_of_gt h0 h
  simp only [exec, execRet, e]

/-- CALL with a free slot pushes `pc + 2` and jumps (R103). -/
theorem exec_call_push (nnn : Addr) (s : State) (h : s.sp.val < 16) :
    exec (.call nnn) s = .next { s with
      stack := s.stack.set s.sp.val (s.pc + 2) h, sp := ⟨s.sp.val + 1, by omega⟩
      pc := zextAddr nnn, outcome := some .advanced } := by
  obtain ⟨_, e⟩ := (s.push_cases (s.pc + 2)).resolve_right fun h0 => Nat.ne_of_lt h h0.1
  simp only [exec, execCall, e]
  rfl

/-- CALL with a full stack raises StackOverflow (R103, R213). -/
theorem exec_call_full (nnn : Addr) (s : State) (h : s.sp.val = 16) :
    exec (.call nnn) s = .next (s.raise .stackOverflow) := by
  obtain ⟨_, e⟩ := (s.push_cases (s.pc + 2)).resolve_left fun ⟨h0, _⟩ => Nat.ne_of_lt h0 h
  simp only [exec, execCall, e]

/-- The sum JP_V0 jumps to, spelt as the spec does: not reduced modulo 4096 (R104). -/
theorem offsetTarget_eq_ofNat (nnn : Addr) (v0 : Byte) :
    offsetTarget nnn v0 = BitVec.ofNat 16 (nnn.toNat + v0.toNat) := by
  rw [← toNat_offsetTarget, BitVec.ofNat_toNat, BitVec.setWidth_eq]

/-- JP loads its address field, the upper four bits 0 (R102). -/
theorem exec_jp (nnn : Addr) (s : State) :
    exec (.jp nnn) s = .next { s with pc := BitVec.ofNat 16 nnn.toNat, outcome := some .advanced } :=
  congrArg (fun w => Host.Outcome.next (s.jump w)) (zextAddr_eq_ofNat nnn)

/-- JP_V0 loads the unreduced sum (R104). -/
theorem exec_jpV0 (nnn : Addr) (s : State) :
    exec (.jpV0 nnn) s = .next { s with
      pc := BitVec.ofNat 16 (nnn.toNat + (s.reg 0).toNat), outcome := some .advanced } :=
  congrArg (fun w => Host.Outcome.next (s.jump w)) (offsetTarget_eq_ofNat nnn (s.reg 0))

end Sys2Proof.Machine

open Sys2Proof Sys2Proof.Machine

/-- Settles O14: RET with an occupied slot, and with none. -/
theorem retPopsOrHalts : Obligations.RetPopsOrHalts := by
  unfold Obligations.RetPopsOrHalts
  exact fun s => ⟨exec_ret_pop s, fun h => (exec_ret_empty s h).trans (by rw [s.raise_fatal .stackUnderflow rfl])⟩

/-- Settles O15: each jump is one load of `pc`. -/
theorem jumpsLoadTheirTarget : Obligations.JumpsLoadTheirTarget := by
  unfold Obligations.JumpsLoadTheirTarget
  exact fun nnn s => ⟨exec_jp nnn s, exec_jpV0 nnn s⟩

/-- Settles O16: CALL with a free slot, and with none. -/
theorem callPushesOrHalts : Obligations.CallPushesOrHalts := by
  unfold Obligations.CallPushesOrHalts
  intro nnn s
  rw [← zextAddr_eq_ofNat]
  exact ⟨exec_call_push nnn s, fun h => (exec_call_full nnn s h).trans (by rw [s.raise_fatal .stackOverflow rfl])⟩

/-- Settles O17: the RET pops the slot the CALL filled, and the slots below it are those before the CALL. -/
theorem returnUndoesCall : Obligations.ReturnUndoesCall := by
  unfold Obligations.ReturnUndoesCall
  intro nnn s t u hs ht hstack hsp
  obtain rfl := Host.Outcome.next.inj ((exec_call_push nnn s hs).symm.trans ht)
  simp only at hstack hsp
  have hu : u.sp.val = s.sp.val + 1 := by rw [hsp]
  refine ⟨_, exec_ret_pop u (by omega), ?_, Fin.ext (by simp [hu]), fun k hk hlt => ?_⟩
  · simp [hu, hstack]
  · simp only [hstack]
    exact Vector.getElem_set_ne hs hk (by omega)
end

section
/-! The skips on two registers and on a key (R113, R114, R170, R171), each by the condition the spec states. -/

namespace Sys2Proof.Machine

/-- SE_REG skips exactly when `V[x]` is `V[y]` (R113). -/
theorem exec_seReg (x y : Nibble) (s : State) :
    exec (.seReg x y) s = .next { s with
      pc := if s.reg x = s.reg y then s.pc + 4 else s.pc + 2, outcome := some .advanced } :=
  congrArg Host.Outcome.next (s.skipIf_of_iff beq_iff_eq)

/-- SNE_REG skips exactly when `V[x]` is not `V[y]` (R114). -/
theorem exec_sneReg (x y : Nibble) (s : State) :
    exec (.sneReg x y) s = .next { s with
      pc := if s.reg x ≠ s.reg y then s.pc + 4 else s.pc + 2, outcome := some .advanced } :=
  congrArg Host.Outcome.next (s.skipIf_of_iff bne_iff_ne)

/-- SKP skips exactly when the selected key is pressed (R170). -/
theorem exec_skp (x : Nibble) (s : State) :
    exec (.skp x) s = .next { s with
      pc := if s.key (keyIndex (s.reg x)) = true then s.pc + 4 else s.pc + 2, outcome := some .advanced } := rfl

/-- SKNP skips exactly when the selected key is released (R171). -/
theorem exec_sknp (x : Nibble) (s : State) :
    exec (.sknp x) s = .next { s with
      pc := if s.key (keyIndex (s.reg x)) = false then s.pc + 4 else s.pc + 2, outcome := some .advanced } :=
  congrArg Host.Outcome.next (s.skipIf_of_iff (iff_of_eq (Bool.not_eq_true' _)))

/-- The key a register value selects is slot number value modulo 16 (R170). -/
theorem State.key_keyIndex (s : State) (b : Byte) :
    s.key (keyIndex b) = s.keys[b.toNat % 16]'(Nat.mod_lt _ (by decide)) := by
  simp only [State.key, toNat_keyIndex]

end Sys2Proof.Machine

namespace Sys2Proof

/-- Classes 5 and 9 hold no instruction whose low nibble is not 0 (R66). -/
theorem decodeWord_layoutXYN_eq_none {c x y n : Nibble} (hc : c = 0x5#4 ∨ c = 0x9#4) (hn : n ≠ 0) :
    decodeWord (layoutXYN c x y n) = none :=
  (decodeWord_eq_none_iff _).2 (.inl ⟨by rwa [fieldClass_layoutXYN], by rwa [fieldN_layoutXYN]⟩)

end Sys2Proof

open Sys2Proof Sys2Proof.Machine

/-- Settles O19: each word is the word of its instruction, each instruction a skip by its own comparison, and the decoder
rejects every other low nibble. -/
theorem registerSkipsMoveThePc : Obligations.RegisterSkipsMoveThePc := by
  unfold Obligations.RegisterSkipsMoveThePc
  intro s x y
  exact ⟨⟨decodeWord_encodeWord (.seReg x y) rfl, exec_seReg x y s⟩,
    ⟨decodeWord_encodeWord (.sneReg x y) rfl, exec_sneReg x y s⟩,
    fun n hn => ⟨decodeWord_layoutXYN_eq_none (.inl rfl) hn, decodeWord_layoutXYN_eq_none (.inr rfl) hn⟩⟩

/-- Settles O30: each instruction is a skip by the level of the key that the low 4 bits of the register select. -/
theorem keySkipsTestTheSelectedKey : Obligations.KeySkipsTestTheSelectedKey := by
  unfold Obligations.KeySkipsTestTheSelectedKey
  intro s x
  simp only [← State.key_keyIndex]
  exact ⟨exec_skp x s, exec_sknp x s⟩
end

section
/-! Results with a flag, the random byte, the address register and the entry to the wait (R124, R135 to R138, R172, R196,
R197): what each instruction leaves, in the spec's own spelling of its values. -/

namespace Sys2Proof.Machine

/-- A result, its flag and the default advance, as one update of the state: the flag is written last (R130). -/
theorem State.advance_setRegAndFlag (x : Nibble) (r : Byte) (f : Bool) (s : State) :
    (s.setRegAndFlag x r f).advance = { s with
      V := (s.V.set x.toNat r x.isLt).set 15 (flagByte f), pc := s.pc + 2, outcome := some .advanced } := rfl

/-- ADD_REG writes the sum modulo 256, then the carry (R135). -/
theorem exec_addReg (x y : Nibble) (s : State) :
    exec (.addReg x y) s = .next { s with
      V := (s.V.set x.toNat (s.reg x + s.reg y) x.isLt).set 15
        (if 255 < (s.reg x).toNat + (s.reg y).toNat then 1 else 0)
      pc := s.pc + 2, outcome := some .advanced } := by
  simp only [exec, execAddReg, State.advance_setRegAndFlag, addResult_eq, addCarry, flagByte, decide_eq_true_eq]

/-- SUB writes the difference modulo 256, then not-borrow (R136). -/
theorem exec_sub (x y : Nibble) (s : State) :
    exec (.sub x y) s = .next { s with
      V := (s.V.set x.toNat (s.reg x - s.reg y) x.isLt).set 15
        (if (s.reg y).toNat ≤ (s.reg x).toNat then 1 else 0)
      pc := s.pc + 2, outcome := some .advanced } := by
  simp only [exec, execSub, State.advance_setRegAndFlag, subResult_eq, subNotBorrow, flagByte, decide_eq_true_eq]

/-- SHR shifts `V[x]` right, then `VF` is its old bit 0 (R137). -/
theorem exec_shr (x y : Nibble) (s : State) :
    exec (.shr x y) s = .next { s with
      V := (s.V.set x.toNat (s.reg x >>> 1) x.isLt).set 15 (s.reg x &&& 1)
      pc := s.pc + 2, outcome := some .advanced } := by
  simp only [exec, execShr, State.advance_setRegAndFlag, shrResult_eq, flagByte_shrOut]

/-- SHL shifts `V[x]` left, then `VF` is its old bit 7 (R138). -/
theorem exec_shl (x y : Nibble) (s : State) :
    exec (.shl x y) s = .next { s with
      V := (s.V.set x.toNat (s.reg x <<< 1) x.isLt).set 15 (s.reg x >>> 7)
      pc := s.pc + 2, outcome := some .advanced } := by
  simp only [exec, execShl, State.advance_setRegAndFlag, shlResult_eq, flagByte_shlOut]

/-- RND writes the next random byte masked by `nn` and uses that byte up (R124). -/
theorem exec_rnd (x : Nibble) (nn : Byte) (s : State) :
    exec (.rnd x nn) s = .next { s with
      V := s.V.set x.toNat (Config.rnd s.draws &&& nn) x.isLt
      draws := s.draws + 1, pc := s.pc + 2, outcome := some .advanced } := rfl

/-- The sum ADD_I leaves in `I`, spelt as the spec does: reduced modulo 65536 (R196). -/
theorem add_zextByte_eq_ofNat (i : Word) (b : Byte) :
    i + zextByte b = BitVec.ofNat 16 ((i.toNat + b.toNat) % 65536) :=
  BitVec.eq_of_toNat_eq (by simp)

/-- ADD_I adds `V[x]` to `I` modulo 65536 and has no flag (R196). -/
theorem exec_addI (x : Nibble) (s : State) :
    exec (.addI x) s = .next { s with
      I := BitVec.ofNat 16 ((s.I.toNat + (s.reg x).toNat) % 65536), pc := s.pc + 2, outcome := some .advanced } :=
  congrArg (fun w => Host.Outcome.next (State.advance { s with I := w })) (add_zextByte_eq_ofNat s.I (s.reg x))

/-- The glyph address, spelt as the spec does (R197). -/
theorem glyphAddr_eq_ofNat (d : Byte) : glyphAddr d = BitVec.ofNat 16 (0x50 + 5 * d.toNat) := by
  rw [← toNat_glyphAddr, BitVec.ofNat_toNat, BitVec.setWidth_eq]

/-- LD_F points `I` at the glyph of the whole byte `V[x]` (R197). -/
theorem exec_ldF (x : Nibble) (s : State) :
    exec (.ldF x) s = .next { s with
      I := BitVec.ofNat 16 (0x50 + 5 * (s.reg x).toNat), pc := s.pc + 2, outcome := some .advanced } :=
  congrArg (fun w => Host.Outcome.next (State.advance { s with I := w })) (glyphAddr_eq_ofNat (s.reg x))

/-- LD_VX_K enters the wait and leaves `pc` at its own address (R172). -/
theorem exec_ldVxK (x : Nibble) (s : State) :
    exec (.ldVxK x) s = .next { s with
      waiting := true, waitX := x, keyValid := false, outcome := some .waiting } := rfl

end Sys2Proof.Machine

open Sys2Proof Sys2Proof.Machine

/-- Settles O21: the byte written is a conjunction with `nn`, whatever the random byte is. -/
theorem rndMasksTheRandomByte : Obligations.RndMasksTheRandomByte := by
  unfold Obligations.RndMasksTheRandomByte
  intro s x nn
  refine ⟨_, exec_rnd x nn s, rfl, fun k hk => ?_⟩
  have hx : State.reg { s with
      V := s.V.set x.toNat (Config.rnd s.draws &&& nn) x.isLt
      draws := s.draws + 1, pc := s.pc + 2, outcome := some .advanced } x = Config.rnd s.draws &&& nn :=
    s.reg_setReg_same x _
  rw [hx, BitVec.getLsbD_and, hk, Bool.and_false]

/-- Settles O23: the result and the flag of ADD_REG and of SUB. -/
theorem addAndSubWriteResultThenFlag : Obligations.AddAndSubWriteResultThenFlag := by
  unfold Obligations.AddAndSubWriteResultThenFlag
  exact fun s x y => ⟨exec_addReg x y s, exec_sub x y s⟩

/-- Settles O24: the result and the flag of SHR and of SHL. -/
theorem shiftsWriteResultThenTheBitShiftedOut : Obligations.ShiftsWriteResultThenTheBitShiftedOut := by
  unfold Obligations.ShiftsWriteResultThenTheBitShiftedOut
  exact fun s x y => ⟨exec_shr x y s, exec_shl x y s⟩

/-- Settles O31: LD_VX_K's own STEP only enters the wait. -/
theorem ldVxKEntersWaiting : Obligations.LdVxKEntersWaiting := by
  unfold Obligations.LdVxKEntersWaiting
  exact fun s x => exec_ldVxK x s

/-- Settles O34: each instruction is one write of `I` and the advance. -/
theorem addressRegisterArithmetic : Obligations.AddressRegisterArithmetic := by
  unfold Obligations.AddressRegisterArithmetic
  exact fun s x => ⟨exec_addI x s, exec_ldF x s⟩
end

section
/-! DRW (R151 to R156): the canvas a draw leaves carries every clause about it; drawing the same pixels again undoes it. -/

namespace Sys2Proof.Machine

theorem flagByte_eq_zero_or_one (f : Bool) : flagByte f = 0 ∨ flagByte f = 1 := by cases f <;> decide

theorem flagByte_eq_one_iff (f : Bool) : flagByte f = 1 ↔ f = true := by cases f <;> decide

theorem flagByte_eq_zero_iff (f : Bool) : flagByte f = 0 ↔ f = false := by cases f <;> decide

/-- DRW with its sprite inside memory leaves a canvas with exactly the covered pixels inverted, under the machine's policy
(R152). -/
theorem exec_drw_draws (x y n : Nibble) (s : State) (hn : n.toNat = 0 ∨ s.base + n.toNat ≤ 4096) :
    ∃ c : Canvas, exec (.drw x y n) s = .next ((s.setCanvas c).setReg VF (flagByte c.collision)).advance ∧
      c.Inverts s.fb fun p => spriteCovers edgePolicy (s.reg x) (s.reg y) (s.mem.readBytes s.base n.toNat) p.1 p.2 := by
  obtain ⟨c, e, hc⟩ := drawUnder_covers edgePolicy x y n s hn
  exact ⟨c, congrArg Host.Outcome.next e, hc⟩

/-- DRW with its sprite running past 4095 raises MemoryOutOfRange (R152, R215). -/
theorem exec_drw_outside (x y n : Nibble) (s : State) (h0 : 0 < n.toNat) (h : 4096 < s.base + n.toNat) :
    exec (.drw x y n) s = .next (s.raise .memoryOutOfRange) := by
  obtain ⟨-, -, e⟩ := (drawUnder_cases edgePolicy x y n s).resolve_left fun ⟨hn, _⟩ => by omega
  exact congrArg Host.Outcome.next e

/-- Inverting the same pixels twice gives the framebuffer back (R156 b). -/
theorem Canvas.Inverts.fb_twice {fb : Framebuffer} {S : Fin 64 × Fin 32 → Prop} {c d : Canvas} (hc : c.Inverts fb S)
    (hd : d.Inverts c.fb S) : d.fb = fb := by
  refine Framebuffer.ext_pixel _ _ fun px py => ?_
  by_cases h : S (px, py)
  · exact (hd.inside _ h).trans (by rw [hc.inside _ h, Bool.not_not])
  · exact (hd.outside _ h).trans (hc.outside _ h)

/-- Against pixels that are all clear there is no collision (R156 c). -/
theorem Canvas.Inverts.collision_of_clear {fb : Framebuffer} {S : Fin 64 × Fin 32 → Prop} {c : Canvas}
    (hc : c.Inverts fb S) (clear : ∀ p, S p → fb.pixel p.1 p.2 = false) : c.collision = false := by
  rw [← Bool.not_eq_true, hc.collision]
  rintro ⟨p, hp, hset⟩
  exact absurd hset (by simp [clear p hp])

/-- The second draw over pixels that were clear collides exactly if there is one (R156 b). -/
theorem Canvas.Inverts.collision_twice {fb : Framebuffer} {S : Fin 64 × Fin 32 → Prop} {c d : Canvas}
    (hc : c.Inverts fb S) (hd : d.Inverts c.fb S) (clear : ∀ p, S p → fb.pixel p.1 p.2 = false) :
    d.collision = true ↔ ∃ p, S p := by
  rw [hd.collision]
  exact exists_congr fun p => and_iff_left_of_imp fun hp => by rw [hc.inside p hp, clear p hp, Bool.not_false]

end Sys2Proof.Machine

open Sys2Proof Sys2Proof.Machine

/-- Settles O26: each clause is what the canvas of the draw says. -/
theorem drwXorsTheCoveredPixels : Obligations.DrwXorsTheCoveredPixels := by
  unfold Obligations.DrwXorsTheCoveredPixels
  intro s x y n hn
  obtain ⟨c, e, hc⟩ := exec_drw_draws x y n s hn
  refine ⟨_, e, fun px py => ⟨hc.inside (px, py), hc.outside (px, py)⟩, ?_, flagByte c.collision,
    flagByte_eq_zero_or_one _, ?_, rfl⟩
  · simp [hc.changed, Prod.exists]
  · rw [flagByte_eq_one_iff, hc.collision, Prod.exists]

/-- Settles O27: the range is checked before anything is drawn. -/
theorem drwOutsideMemoryHalts : Obligations.DrwOutsideMemoryHalts := by
  unfold Obligations.DrwOutsideMemoryHalts
  intro s x y n h0 h
  rw [exec_drw_outside x y n s h0 h, s.raise_fatal .memoryOutOfRange rfl]

/-- Settles O28: a draw changes neither memory nor `I`, so from one origin the second inverts the pixels of the first. -/
theorem drawingTwiceRestoresTheScreen : Obligations.DrawingTwiceRestoresTheScreen := by
  unfold Obligations.DrawingTwiceRestoresTheScreen
  intro s t x y n hn ht
  obtain ⟨c, e, hc⟩ := exec_drw_draws x y n s hn
  obtain rfl := Host.Outcome.next.inj (e.symm.trans ht)
  have flag (s : State) (c : Canvas) : (((s.setCanvas c).setReg VF (flagByte c.collision)).advance).reg 0xF =
      flagByte c.collision := State.reg_setReg_same _ VF _
  refine ⟨fun h => ?_, fun clear => ?_, fun u hx hy hu => ?_⟩
  · rw [flag, flagByte_eq_one_iff] at h
    simp [hc.changed_of_collision h]
  · rw [flag, flagByte_eq_zero_iff]
    exact hc.collision_of_clear fun p => clear p.1 p.2
  · obtain ⟨d, e', hd⟩ := exec_drw_draws x y n ((s.setCanvas c).setReg VF (flagByte c.collision)).advance hn
    obtain rfl := Host.Outcome.next.inj (e'.symm.trans hu)
    rw [hx, hy] at hd
    refine ⟨hc.fb_twice hd, fun clear => ?_⟩
    rw [flag, flagByte_eq_one_iff, hc.collision_twice hd fun p => clear p.1 p.2, Prod.exists]

/-- Settles O29: each policy's row of the table, and that `wrap` drops no pixel. -/
theorem placeFollowsThePolicyTable : Obligations.PlaceFollowsThePolicyTable := by
  unfold Obligations.PlaceFollowsThePolicyTable
  intro ox oy col row px py
  have onGrid_iff (a b : Nat) : onGrid a b = some (px, py) ↔ px.val = a ∧ py.val = b :=
    (onGrid_eq_some a b (px, py)).trans (and_congr eq_comm eq_comm)
  exact ⟨onGrid_iff _ _, onGrid_iff _ _, onGrid_iff _ _, place_wrap_isSome ox oy col row⟩
end

section
/-! Stores and loads at `I` (R198 to R200): what is read back from a stored range and outside it, and what a block load puts
into each register. -/

namespace Sys2Proof.Machine

/-- Byte k of a range written inside memory, read back. -/
theorem Memory.read_writeBytes_inside (m : Memory) (a k : Nat) (bs : List Byte) (hm : m.wf)
    (h : a + bs.length ≤ memSize) (hk : k < bs.length) : (m.writeBytes a bs).read (a + k) = bs[k] := by
  rw [Memory.read_writeBytes m a (a + k) bs hm (.inr h), dif_pos (by omega)]
  simp

/-- Writing a range inside memory leaves every byte outside the range. -/
theorem Memory.read_writeBytes_outside (m : Memory) (a a' : Nat) (bs : List Byte) (hm : m.wf)
    (h : a + bs.length ≤ memSize) (ha : a' < a ∨ a + bs.length ≤ a') : (m.writeBytes a bs).read a' = m.read a' := by
  rw [Memory.read_writeBytes m a a' bs hm (.inr h), dif_neg (by omega)]

/-- A store at `I` inside memory writes its bytes and advances (R198, R199). -/
theorem storeAtI_inside (bs : List Byte) (s : State) (h : s.base + bs.length ≤ 4096) :
    storeAtI bs s = { s with mem := s.mem.writeBytes s.base bs, pc := s.pc + 2, outcome := some .advanced } :=
  ((storeAtI_cases bs s).resolve_right fun ⟨_, h', _⟩ => by omega).2

/-- A store at `I` that runs past 4095 raises MemoryOutOfRange (R41, R215). -/
theorem storeAtI_outside (bs : List Byte) (s : State) (hne : bs ≠ []) (h : 4096 < s.base + bs.length) :
    storeAtI bs s = s.raise .memoryOutOfRange :=
  ((storeAtI_cases bs s).resolve_left fun ⟨h', _⟩ => by
    rcases h' with h' | h'
    · exact hne h'
    · omega).2.2

/-- BCD inside memory stores the three digits (R198). -/
theorem exec_bcd_inside (x : Nibble) (s : State) (h : s.base ≤ 4093) :
    exec (.bcd x) s = .next { s with
      mem := s.mem.writeBytes s.base (bcdDigits (s.reg x)), pc := s.pc + 2, outcome := some .advanced } :=
  congrArg Host.Outcome.next (storeAtI_inside _ s (by rw [length_bcdDigits]; omega))

/-- BCD that runs past 4095 raises MemoryOutOfRange (R198, R215). -/
theorem exec_bcd_outside (x : Nibble) (s : State) (h : 4093 < s.base) :
    exec (.bcd x) s = .next (s.raise .memoryOutOfRange) :=
  congrArg Host.Outcome.next (storeAtI_outside _ s (List.cons_ne_nil _ _) (by rw [length_bcdDigits]; omega))

/-- STOR inside memory stores the block `V0..Vx` (R199). -/
theorem exec_stor_inside (x : Nibble) (s : State) (h : s.base + x.toNat ≤ 4095) :
    exec (.stor x) s = .next { s with
      mem := s.mem.writeBytes s.base (s.block x), pc := s.pc + 2, outcome := some .advanced } :=
  congrArg Host.Outcome.next (storeAtI_inside _ s (by rw [State.length_block]; omega))

/-- STOR that runs past 4095 raises MemoryOutOfRange (R199, R215). -/
theorem exec_stor_outside (x : Nibble) (s : State) (h : 4095 < s.base + x.toNat) :
    exec (.stor x) s = .next (s.raise .memoryOutOfRange) :=
  congrArg Host.Outcome.next
    (storeAtI_outside _ s (List.ne_nil_of_length_pos (by simp)) (by rw [State.length_block]; omega))

/-- After a STOR inside memory the byte at `I + k` is `V[k]` (R199). -/
theorem read_of_exec_stor {x : Nibble} {s t : State} (hm : s.mem.wf) (hx : s.base + x.toNat ≤ 4095)
    (ht : exec (.stor x) s = .next t) (k : Nat) (hk : k < 16) (hkx : k ≤ x.toNat) : t.mem.read (s.base + k) = s.V[k] := by
  obtain rfl := Host.Outcome.next.inj ((exec_stor_inside x s hx).symm.trans ht)
  have hlen := s.length_block x
  exact (Memory.read_writeBytes_inside s.mem s.base k (s.block x) hm (by rw [hlen]; exact Nat.succ_le_succ hx)
    (by omega)).trans (s.getElem_block x k _)

/-- LOAD inside memory reads the block at `I` (R200). -/
theorem exec_load_inside (x : Nibble) (s : State) (h : s.base + x.toNat ≤ 4095) :
    exec (.load x) s = .next { s with
      V := (s.setBlock (s.mem.readBytes s.base (x.toNat + 1))).V, pc := s.pc + 2, outcome := some .advanced } := by
  obtain ⟨-, e⟩ := (s.loadBytes_cases s.base (blockLength x)).resolve_right fun ⟨_, h', _⟩ => by
    simp only [blockLength] at h'
    omega
  simp only [exec, execLoad, e]
  simp only [State.setBlock, State.advance, State.jump, blockLength]

/-- LOAD that runs past 4095 raises MemoryOutOfRange (R200, R215). -/
theorem exec_load_outside (x : Nibble) (s : State) (h : 4095 < s.base + x.toNat) :
    exec (.load x) s = .next (s.raise .memoryOutOfRange) := by
  obtain ⟨-, -, e⟩ := (s.loadBytes_cases s.base (blockLength x)).resolve_left fun ⟨h', _⟩ => by
    simp only [blockLength] at h'
    omega
  simp only [exec, execLoad, e]

/-- A register of the block after a block load is the byte of its number (R200). -/
theorem State.setBlock_V_inside (s : State) (bs : List Byte) (k : Nat) (hk : k < 16) (h : k < bs.length) :
    (s.setBlock bs).V[k] = bs[k] := by
  simp [State.setBlock, h]

/-- A register the list does not reach keeps its value (R200). -/
theorem State.setBlock_V_outside (s : State) (bs : List Byte) (k : Nat) (hk : k < 16) (h : bs.length ≤ k) :
    (s.setBlock bs).V[k] = s.V[k] := by
  simp [State.setBlock, h]

/-- After a LOAD inside memory `V[k]` is the byte at `I + k` (R200). -/
theorem State.setBlock_readBytes_V (s : State) (m : Memory) (a n k : Nat) (hk : k < 16) (h : k < n) :
    (s.setBlock (m.readBytes a n)).V[k] = m.read (a + k) := by
  rw [s.setBlock_V_inside _ k hk (by rwa [Memory.length_readBytes]), Memory.getElem_readBytes]

/-! ### The canonical form -/

/-- Reading the first cell. -/
theorem Memory.read_head (c : Host.Cell) (m : Memory) : Memory.read (c :: m) c.1 = c.2 := if_pos rfl

/-- A memory that reads as a canonical one cannot lie wholly above that one's first cell: it would read it as unlisted. -/
theorem Memory.not_above_head {c : Host.Cell} {m m' : Memory} (hm : Memory.wf (c :: m))
    (h : Memory.read (c :: m) c.1 = m'.read c.1) : ¬ ∀ d ∈ m', c.1 < d.1 := by
  intro above
  obtain ⟨-, ⟨-, hne⟩, -⟩ := (Memory.wf_cons c m).1 hm
  exact hne (by rw [← Memory.read_head c m, h, Memory.read_below m' c.1 above])

/-- Canonical memories that read the same everywhere are equal: their first cells agree, and so do the rests. -/
theorem Memory.ext_read (m₁ m₂ : Memory) (h₁ : m₁.wf) (h₂ : m₂.wf) (h : ∀ a, m₁.read a = m₂.read a) : m₁ = m₂ := by
  induction m₁ generalizing m₂ with
  | nil =>
    cases m₂ with
    | nil => rfl
    | cons d m₂ => exact absurd (by simp) (Memory.not_above_head h₂ (h d.1).symm)
  | cons c m₁ ih =>
    cases m₂ with
    | nil => exact absurd (by simp) (Memory.not_above_head h₁ (h c.1))
    | cons d m₂ =>
      obtain ⟨hc, -, hw₁⟩ := (Memory.wf_cons c m₁).1 h₁
      obtain ⟨hd, -, hw₂⟩ := (Memory.wf_cons d m₂).1 h₂
      have hcd : ¬ c.1 < d.1 := fun hlt => Memory.not_above_head h₁ (h c.1)
        (List.forall_mem_cons.2 ⟨hlt, fun e he => hlt.trans (hd e he)⟩)
      have hdc : ¬ d.1 < c.1 := fun hlt => Memory.not_above_head h₂ (h d.1).symm
        (List.forall_mem_cons.2 ⟨hlt, fun e he => hlt.trans (hc e he)⟩)
      have haddr : c.1 = d.1 := by omega
      have hbyte : c.2 = d.2 := by rw [← Memory.read_head c m₁, h, haddr, Memory.read_head]
      obtain rfl : c = d := Prod.ext haddr hbyte
      congr 1
      refine ih m₂ hw₁ hw₂ fun a => ?_
      by_cases ha : c.1 = a
      · subst ha
        rw [Memory.read_below m₁ _ hc, Memory.read_below m₂ _ hd]
      · simpa [Memory.read, ha] using h a

end Sys2Proof.Machine

open Sys2Proof Sys2Proof.Machine

/-- Settles O35: the three digits are a range of three bytes at `I`. -/
theorem bcdStoresTheDecimalDigits : Obligations.BcdStoresTheDecimalDigits := by
  unfold Obligations.BcdStoresTheDecimalDigits
  intro s x
  refine ⟨decodeWord_encodeWord (.bcd x) rfl, fun hm h => ?_, fun h => ?_⟩
  · have hlen : s.base + (bcdDigits (s.reg x)).length ≤ memSize := by
      rw [length_bcdDigits, memSize]
      omega
    have digit (k : Nat) (hk : k < 3) := Memory.read_writeBytes_inside s.mem s.base k (bcdDigits (s.reg x)) hm hlen hk
    exact ⟨_, exec_bcd_inside x s h, digit 0 (by decide), digit 1 (by decide), digit 2 (by decide),
      fun a => Memory.read_writeBytes_outside s.mem s.base a (bcdDigits (s.reg x)) hm hlen, rfl⟩
  · rw [exec_bcd_outside x s h, s.raise_fatal .memoryOutOfRange rfl]

/-- Settles O36: the block is a range of x + 1 bytes at `I`. -/
theorem storWritesTheRegisterBlock : Obligations.StorWritesTheRegisterBlock := by
  unfold Obligations.StorWritesTheRegisterBlock
  intro s x
  refine ⟨fun hm h => ?_, fun h => ?_⟩
  · have e := exec_stor_inside x s h
    refine ⟨_, e, read_of_exec_stor hm h e, fun a ha => ?_, rfl⟩
    refine Memory.read_writeBytes_outside s.mem s.base a (s.block x) hm ?_ ?_ <;> simp [memSize] <;> omega
  · rw [exec_stor_outside x s h, s.raise_fatal .memoryOutOfRange rfl]

/-- Settles O37: registers the block reaches, and registers above it. -/
theorem loadReadsTheRegisterBlock : Obligations.LoadReadsTheRegisterBlock := by
  unfold Obligations.LoadReadsTheRegisterBlock
  intro s x
  refine ⟨fun h => ⟨_, exec_load_inside x s h, fun k hk hkx => ?_, fun k hk hkx => ?_, rfl⟩, fun h => ?_⟩
  · exact s.setBlock_readBytes_V s.mem s.base _ k hk (by omega)
  · exact s.setBlock_V_outside _ k hk (by rw [Memory.length_readBytes]; omega)
  · rw [exec_load_outside x s h, s.raise_fatal .memoryOutOfRange rfl]

/-- Settles O38: LOAD reads the bytes that STOR left at the same addresses. -/
theorem loadAfterStorRestoresTheRegisters : Obligations.LoadAfterStorRestoresTheRegisters := by
  unfold Obligations.LoadAfterStorRestoresTheRegisters
  intro s t u x hm hx ht hmem hI
  have hbase : u.base = s.base := congrArg BitVec.toNat hI
  refine ⟨_, exec_load_inside x u (by omega), fun k hk hkx => ?_⟩
  rw [u.setBlock_readBytes_V _ _ _ k hk (by omega), hmem, hbase, read_of_exec_stor hm hx ht k hk hkx]

/-- Settles O39: the two bytes the fetch reads are the first two of the block. -/
theorem fetchSeesAStoreAtOnce : Obligations.FetchSeesAStoreAtOnce := by
  unfold Obligations.FetchSeesAStoreAtOnce
  intro s t x hm hx h1 ht
  exact congrArg₂ wordOfBytes (read_of_exec_stor hm hx ht 0 (by decide) (by omega))
    (read_of_exec_stor hm hx ht 1 (by decide) h1)

/-- Settles O40: induction over the two lists of cells. -/
theorem equalReadsAreEqualMemories : Obligations.EqualReadsAreEqualMemories := by
  unfold Obligations.EqualReadsAreEqualMemories
  exact Memory.ext_read
end

section
/-! Everything an instruction can do, said once: it halts the core on a condition of the error table (R213 to R216), or it
completes, and then it has written nothing but what its row of R25 and R14 lists. The rules about the whole machine are read
off from this. -/

namespace Sys2Proof.Machine

/-- The condition of the error table on which an instruction halts the core (R213 to R215). -/
def HaltsOn (i : Instr) (s : State) : Prop :=
  match i with
  | .call _ => s.sp.val = 16
  | .ret => s.sp.val = 0
  | .drw _ _ n => 0 < n.toNat ∧ 4096 < s.base + n.toNat
  | .bcd _ => 4093 < s.base
  | .stor x => 4095 < s.base + x.toNat
  | .load x => 4095 < s.base + x.toNat
  | _ => False

/-- The `pc` an instruction that does not halt the core leaves (R14). -/
def PcAfter (i : Instr) (s : State) (pc : Word) : Prop :=
  match i with
  | .jp nnn => pc.toNat = nnn.toNat
  | .call nnn => pc.toNat = nnn.toNat
  | .ret => ∃ _ : 0 < s.sp.val, pc = s.stack[s.sp.val - 1]
  | .jpV0 nnn => pc.toNat = nnn.toNat + (s.reg 0).toNat
  | .seImm x nn => pc = if s.reg x = nn then s.pc + 4 else s.pc + 2
  | .sneImm x nn => pc = if s.reg x ≠ nn then s.pc + 4 else s.pc + 2
  | .seReg x y => pc = if s.reg x = s.reg y then s.pc + 4 else s.pc + 2
  | .sneReg x y => pc = if s.reg x ≠ s.reg y then s.pc + 4 else s.pc + 2
  | .skp x => pc = if s.key (keyIndex (s.reg x)) = true then s.pc + 4 else s.pc + 2
  | .sknp x => pc = if s.key (keyIndex (s.reg x)) = false then s.pc + 4 else s.pc + 2
  | .ldVxK _ => pc = s.pc
  | _ => pc = s.pc + 2

/-- What `i` leaves unchanged from `s` to `t`, element by element with its writers (R11 to R23, R25). -/
structure Frame (i : Instr) (s t : State) : Prop where
  mem : (∀ x, i ≠ .bcd x) → (∀ x, i ≠ .stor x) → t.mem = s.mem
  memWf : s.mem.wf → t.mem.wf
  display : i ≠ .cls → (∀ x y n, i ≠ .drw x y n) → t.fb = s.fb ∧ t.dirty = s.dirty
  dirtyStays : s.dirty = true → t.dirty = true
  keys : t.keys = s.keys
  DT : (∀ x, i ≠ .ldDtVx x) → t.DT = s.DT
  ST : (∀ x, i ≠ .ldStVx x) → t.ST = s.ST
  I : (∀ nnn, i ≠ .ldI nnn) → (∀ x, i ≠ .addI x) → (∀ x, i ≠ .ldF x) → t.I = s.I
  stack : i ≠ .ret → (∀ nnn, i ≠ .call nnn) → t.stack = s.stack ∧ t.sp = s.sp
  /-- an occupied slot was occupied before, or a CALL has pushed it -/
  slots : ∀ k (h : k < 16), k < t.sp.val → (k < s.sp.val ∧ t.stack[k] = s.stack[k]) ∨ t.stack[k] = s.pc + 2
  reg : ∀ r, r ∉ destinations i → t.reg r = s.reg r
  waiting : (∀ x, i ≠ .ldVxK x) → t.waiting = s.waiting
  latch : t.keyValid = true → s.keyValid = true

/-- `i`, executed in `s`, does not halt the core and leaves `t`. -/
structure Completes (i : Instr) (s t : State) : Prop extends Frame i s t where
  pcAfter : PcAfter i s t.pc
  outcome : t.outcome.isSome = true
  halted : t.halted = s.halted
  err : t.err = s.err

theorem Frame.refl (i : Instr) (s : State) : Frame i s s where
  mem _ _ := rfl
  memWf := id
  display _ _ := ⟨rfl, rfl⟩
  dirtyStays := id
  keys := rfl
  DT _ := rfl
  ST _ := rfl
  I _ _ _ := rfl
  stack _ _ := ⟨rfl, rfl⟩
  slots _ _ h := .inl ⟨h, rfl⟩
  reg _ _ := rfl
  waiting _ := rfl
  latch := id

/-- A fatal error leaves every element but `halted` and `err` (R216). -/
theorem Frame.raise (i : Instr) (s : State) {k : ErrorKind} (hk : k.isFatal = true) : Frame i s (s.raise k) := by
  rw [s.raise_fatal k hk]
  exact { Frame.refl i s with }

/-- An instruction that writes `pc` and the outcome only. -/
theorem Completes.pcOnly {i : Instr} {s : State} {pc : Word} {o : StepOutcome} (h : PcAfter i s pc) :
    Completes i s { s with pc := pc, outcome := some o } :=
  { Frame.refl i s with pcAfter := h, outcome := rfl, halted := rfl, err := rfl }

/-- An instruction that writes registers among its destinations and advances. -/
theorem Completes.setV {i : Instr} {s : State} {V : Vector Byte 16}
    (hV : ∀ r, r ∉ destinations i → V[r.toNat]'r.isLt = s.reg r) (h : PcAfter i s (s.pc + 2)) :
    Completes i s { s with V := V, pc := s.pc + 2, outcome := some .advanced } :=
  { Frame.refl i s with reg := hV, pcAfter := h, outcome := rfl, halted := rfl, err := rfl }

/-- An instruction that writes one register and advances. -/
theorem Completes.setReg {i : Instr} {s : State} {x : Nibble} {b : Byte} (hx : x ∈ destinations i)
    (h : PcAfter i s (s.pc + 2)) : Completes i s (s.setReg x b).advance :=
  .setV (fun r hr => s.reg_setReg_other x r b fun e => hr (e ▸ hx)) h

/-- An instruction that writes one register, then its flag, and advances. -/
theorem Completes.setRegAndFlag {i : Instr} {s : State} {x : Nibble} {r : Byte} {f : Bool} (hx : x ∈ destinations i)
    (hf : VF ∈ destinations i) (h : PcAfter i s (s.pc + 2)) : Completes i s (s.setRegAndFlag x r f).advance :=
  .setV (fun a ha => ((s.setReg x r).reg_setReg_other VF a (flagByte f) fun e => ha (e ▸ hf)).trans
    (s.reg_setReg_other x a r fun e => ha (e ▸ hx))) h

/-- An instruction that writes memory in its canonical form and advances. -/
theorem Completes.setMem {i : Instr} {s : State} {m : Memory} (hi : (∃ x, i = .bcd x) ∨ ∃ x, i = .stor x)
    (hm : s.mem.wf → m.wf) (h : PcAfter i s (s.pc + 2)) :
    Completes i s { s with mem := m, pc := s.pc + 2, outcome := some .advanced } :=
  { Frame.refl i s with
    mem := fun hb hs => hi.elim (fun ⟨x, e⟩ => absurd e (hb x)) (fun ⟨x, e⟩ => absurd e (hs x))
    memWf := hm
    pcAfter := h
    outcome := rfl, halted := rfl, err := rfl }

/-- RET that finds an occupied slot: the slots below it stay (R100). -/
theorem Completes.ret (s : State) (h : 0 < s.sp.val) : Completes .ret s { s with
    sp := ⟨s.sp.val - 1, by omega⟩, pc := s.stack[s.sp.val - 1], outcome := some .advanced } :=
  { Frame.refl .ret s with
    stack := fun hi => absurd rfl hi
    slots := fun _ _ hlt => .inl ⟨Nat.lt_of_lt_of_le hlt (Nat.sub_le _ _), rfl⟩
    pcAfter := ⟨h, rfl⟩
    outcome := rfl, halted := rfl, err := rfl }

/-- CALL that finds a free slot: it holds `pc + 2` afterwards, the slots below it stay (R103). -/
theorem Completes.call (nnn : Addr) (s : State) (h : s.sp.val < 16) : Completes (.call nnn) s { s with
    stack := s.stack.set s.sp.val (s.pc + 2) h, sp := ⟨s.sp.val + 1, by omega⟩
    pc := zextAddr nnn, outcome := some .advanced } :=
  { Frame.refl (.call nnn) s with
    stack := fun _ hi => absurd rfl (hi nnn)
    slots := fun k hk hlt => (Nat.lt_succ_iff_lt_or_eq.1 hlt).elim
      (fun hlt => .inl ⟨hlt, Vector.getElem_set_ne h hk (Nat.ne_of_gt hlt)⟩)
      (fun e => .inr (by subst e; exact Vector.getElem_set_self h))
    pcAfter := toNat_zextAddr nnn
    outcome := rfl, halted := rfl, err := rfl }

/-- The destinations of LOAD are `V0..Vx` (R200). -/
theorem lt_of_notMem_destinations_load {x r : Nibble} (h : r ∉ destinations (.load x)) : x.toNat < r.toNat := by
  by_contra hle
  refine h (List.mem_map.2 ⟨r.toNat, List.mem_range.2 (by omega), ?_⟩)
  rw [BitVec.ofNat_toNat, BitVec.setWidth_eq]

/-- LOAD of a block inside memory: it reaches the registers `V0..Vx` only (R200). -/
theorem Completes.load (x : Nibble) (s : State) (bs : List Byte) (h : bs.length = x.toNat + 1) :
    Completes (.load x) s { s with V := (s.setBlock bs).V, pc := s.pc + 2, outcome := some .advanced } :=
  .setV (fun r hr => s.setBlock_V_outside bs r.toNat r.isLt
    (by have := lt_of_notMem_destinations_load hr; omega)) rfl

/-- Everything an instruction can do. -/
theorem exec_cases (i : Instr) (s : State) :
    (HaltsOn i s ∧ ∃ k, k.isFatal = true ∧ exec i s = .next (s.raise k)) ∨
    (¬ HaltsOn i s ∧ ∃ t, exec i s = .next t ∧ Completes i s t) := by
  cases i with
  | cls =>
    exact .inr ⟨id, _, exec_cls s, { Frame.refl .cls s with
      display := fun hi => absurd rfl hi, dirtyStays := fun _ => rfl
      pcAfter := rfl, outcome := rfl, halted := rfl, err := rfl }⟩
  | ret =>
    rcases Nat.eq_zero_or_pos s.sp.val with h | h
    · exact .inl ⟨h, _, rfl, exec_ret_empty s h⟩
    · exact .inr ⟨Nat.ne_of_gt h, _, exec_ret_pop s h, .ret s h⟩
  | sys nnn => exact .inr ⟨id, _, exec_sys nnn s, .pcOnly rfl⟩
  | jp nnn => exact .inr ⟨id, _, rfl, .pcOnly (toNat_zextAddr nnn)⟩
  | call nnn =>
    rcases Nat.eq_or_lt_of_le (Nat.lt_succ_iff.1 s.sp.isLt) with h | h
    · exact .inl ⟨h, _, rfl, exec_call_full nnn s h⟩
    · exact .inr ⟨Nat.ne_of_lt h, _, exec_call_push nnn s h, .call nnn s h⟩
  | seImm x nn => exact .inr ⟨id, _, exec_seImm x nn s, .pcOnly rfl⟩
  | sneImm x nn => exact .inr ⟨id, _, exec_sneImm x nn s, .pcOnly rfl⟩
  | seReg x y => exact .inr ⟨id, _, exec_seReg x y s, .pcOnly rfl⟩
  | sneReg x y => exact .inr ⟨id, _, exec_sneReg x y s, .pcOnly rfl⟩
  | skp x => exact .inr ⟨id, _, exec_skp x s, .pcOnly rfl⟩
  | sknp x => exact .inr ⟨id, _, exec_sknp x s, .pcOnly rfl⟩
  | jpV0 nnn => exact .inr ⟨id, _, rfl, .pcOnly (toNat_offsetTarget nnn (s.reg 0))⟩
  | ldImm | addImm | ldReg | or | and | xor | ldVxDt =>
    exact .inr ⟨id, _, rfl, .setReg (List.mem_singleton_self _) rfl⟩
  | addReg | sub | shr | shl =>
    exact .inr ⟨id, _, rfl, .setRegAndFlag (by simp [destinations]) (by simp [destinations, VF]) rfl⟩
  | rnd x nn =>
    have hreg : Completes (.rnd x nn) s (s.setReg x (s.random &&& nn)).advance := .setReg (List.mem_singleton_self x) rfl
    exact .inr ⟨id, _, rfl, { hreg with }⟩
  | ldI nnn =>
    exact .inr ⟨id, _, rfl, { Frame.refl (.ldI nnn) s with
      I := fun hi => absurd rfl (hi nnn), pcAfter := rfl, outcome := rfl, halted := rfl, err := rfl }⟩
  | addI x =>
    exact .inr ⟨id, _, rfl, { Frame.refl (.addI x) s with
      I := fun _ hi => absurd rfl (hi x), pcAfter := rfl, outcome := rfl, halted := rfl, err := rfl }⟩
  | ldF x =>
    exact .inr ⟨id, _, rfl, { Frame.refl (.ldF x) s with
      I := fun _ _ hi => absurd rfl (hi x), pcAfter := rfl, outcome := rfl, halted := rfl, err := rfl }⟩
  | ldVxK x =>
    exact .inr ⟨id, _, rfl, { Frame.refl (.ldVxK x) s with
      waiting := fun hi => absurd rfl (hi x), latch := fun h => absurd h Bool.false_ne_true
      pcAfter := rfl, outcome := rfl, halted := rfl, err := rfl }⟩
  | ldDtVx x =>
    exact .inr ⟨id, _, rfl, { Frame.refl (.ldDtVx x) s with
      DT := fun hi => absurd rfl (hi x), pcAfter := rfl, outcome := rfl, halted := rfl, err := rfl }⟩
  | ldStVx x =>
    exact .inr ⟨id, _, rfl, { Frame.refl (.ldStVx x) s with
      ST := fun hi => absurd rfl (hi x), pcAfter := rfl, outcome := rfl, halted := rfl, err := rfl }⟩
  | drw x y n =>
    by_cases h : 0 < n.toNat ∧ 4096 < s.base + n.toNat
    · exact .inl ⟨h, _, rfl, exec_drw_outside x y n s h.1 h.2⟩
    · obtain ⟨c, e, -⟩ := exec_drw_draws x y n s (by omega)
      exact .inr ⟨h, _, e, { Completes.setReg (i := .drw x y n) (List.mem_singleton_self VF) rfl with
        display := fun _ hi => absurd rfl (hi x y n), dirtyStays := fun hd => by simp [hd] }⟩
  | bcd x =>
    rcases Nat.lt_or_ge 4093 s.base with h | h
    · exact .inl ⟨h, _, rfl, exec_bcd_outside x s h⟩
    · exact .inr ⟨Nat.not_lt.2 h, _, exec_bcd_inside x s h, .setMem (.inl ⟨x, rfl⟩) (fun hm =>
        Memory.writeBytes_wf s.mem s.base _ hm (.inr (by rw [length_bcdDigits, memSize]; omega))) rfl⟩
  | stor x =>
    rcases Nat.lt_or_ge 4095 (s.base + x.toNat) with h | h
    · exact .inl ⟨h, _, rfl, exec_stor_outside x s h⟩
    · exact .inr ⟨Nat.not_lt.2 h, _, exec_stor_inside x s h, .setMem (.inr ⟨x, rfl⟩) (fun hm =>
        Memory.writeBytes_wf s.mem s.base _ hm (.inr (by rw [State.length_block, memSize]; omega))) rfl⟩
  | load x =>
    rcases Nat.lt_or_ge 4095 (s.base + x.toNat) with h | h
    · exact .inl ⟨h, _, rfl, exec_load_outside x s h⟩
    · exact .inr ⟨Nat.not_lt.2 h, _, exec_load_inside x s h, .load x s _ (Memory.length_readBytes _ _ _)⟩

/-- Everything an instruction that answers `t` has done. -/
theorem exec_next_cases {i : Instr} {s t : State} (h : exec i s = .next t) :
    (HaltsOn i s ∧ ∃ k, k.isFatal = true ∧ t = s.raise k) ∨ (¬ HaltsOn i s ∧ Completes i s t) := by
  rcases exec_cases i s with ⟨hi, k, hk, e⟩ | ⟨hi, u, e, hc⟩
  · exact .inl ⟨hi, k, hk, Host.Outcome.next.inj (h.symm.trans e)⟩
  · exact .inr ⟨hi, Host.Outcome.next.inj (e.symm.trans h) ▸ hc⟩

/-- Whether it halts the core or not, an instruction writes nothing but its own elements. -/
theorem exec_frame {i : Instr} {s t : State} (h : exec i s = .next t) : Frame i s t := by
  rcases exec_next_cases h with ⟨-, k, hk, rfl⟩ | ⟨-, hc⟩
  · exact .raise i s hk
  · exact hc.toFrame

/-- The condition of the error table, spelt as the last byte accessed (R213 to R215). -/
theorem haltsOn_iff (i : Instr) (s : State) : HaltsOn i s ↔
    ((∃ nnn, i = .call nnn) ∧ s.sp.val = 16) ∨
    (i = .ret ∧ s.sp.val = 0) ∨
    (∃ x y n, i = .drw x y n ∧ 0 < n.toNat ∧ 4095 < s.base + n.toNat - 1) ∨
    ((∃ x, i = .bcd x) ∧ 4095 < s.base + 2) ∨
    (∃ x, (i = .stor x ∨ i = .load x) ∧ 4095 < s.base + x.toNat) := by
  cases i <;>
    simp only [HaltsOn, reduceCtorEq, Instr.call.injEq, Instr.bcd.injEq, Instr.stor.injEq, Instr.load.injEq,
      exists_eq', exists_eq_left', exists_false, false_and, true_and, false_or, or_false]
  case drw x y n =>
    constructor
    · exact fun h => ⟨x, y, n, rfl, h.1, by omega⟩
    · rintro ⟨_, _, _, e, h⟩
      obtain ⟨rfl, rfl, rfl⟩ := Instr.drw.inj e
      omega
  case bcd => omega

end Sys2Proof.Machine

open Sys2Proof Sys2Proof.Machine

/-- Settles O41: memory's writers in the frame. -/
theorem onlyBcdAndStorWriteMemory : Obligations.OnlyBcdAndStorWriteMemory := by
  unfold Obligations.OnlyBcdAndStorWriteMemory
  intro i s t h hb hs a
  rw [(exec_frame h).mem hb hs]

/-- Settles O42: the writers of each element in the frame. -/
theorem specialStateHasOnlyItsListedWriters : Obligations.SpecialStateHasOnlyItsListedWriters := by
  unfold Obligations.SpecialStateHasOnlyItsListedWriters
  intro i s t h
  have f := exec_frame h
  exact ⟨f.display, f.dirtyStays, f.keys, f.DT, f.ST, f.I, f.stack⟩

/-- Settles O43: the registers in the frame. -/
theorem registersHaveOnlyTheirListedWriters : Obligations.RegistersHaveOnlyTheirListedWriters := by
  unfold Obligations.RegistersHaveOnlyTheirListedWriters
  exact fun i s t r h => (exec_frame h).reg r

/-- Settles O44: a halt leaves `pc`; an instruction that completes leaves its row of the table. -/
theorem pcAfterEveryInstruction : Obligations.PcAfterEveryInstruction := by
  unfold Obligations.PcAfterEveryInstruction
  intro i s t hs h
  rcases exec_next_cases h with ⟨-, k, hk, rfl⟩ | ⟨-, hc⟩
  · rw [s.raise_fatal k hk, if_pos rfl]
  · rw [if_neg (by simp [hc.halted, hs])]
    have hpc := hc.pcAfter
    cases i <;> exact hpc

/-- Settles O45: an instruction halts the core exactly on its condition, and then by the entry of a fatal error. -/
theorem haltExactlyOnTheListedConditions : Obligations.HaltExactlyOnTheListedConditions := by
  unfold Obligations.HaltExactlyOnTheListedConditions
  intro i s t hs h
  rw [← haltsOn_iff]
  rcases exec_next_cases h with ⟨hi, k, hk, rfl⟩ | ⟨hi, hc⟩
  · rw [s.raise_fatal k hk]
    exact ⟨iff_of_true rfl hi, fun _ => ⟨k, hk, rfl⟩⟩
  · have ht : ¬ t.halted = true := by simp [hc.halted, hs]
    exact ⟨iff_of_false ht hi, fun h => absurd h ht⟩

/-- Settles O46: an instruction halts the core or completes, and either is a next state. -/
theorem everyInstructionAnswersANextState : Obligations.EveryInstructionAnswersANextState := by
  unfold Obligations.EveryInstructionAnswersANextState
  intro i s
  rcases exec_cases i s with ⟨-, k, -, e⟩ | ⟨-, t, e, -⟩
  · exact ⟨_, e⟩
  · exact ⟨t, e⟩
end

section
/-! The STEP (R82 to R87), from an empty agenda or the head of one, branch by branch. -/

namespace Sys2Proof.Machine

/-- A Waiting STEP that finds nothing latched (R83). -/
theorem cycle_waiting (s : State) (h : s.isWaiting) (hk : s.keyValid = false) :
    cycle s = .next { s with outcome := some .waiting } := by
  simp [cycle, h.1, h.2, hk]

/-- A Waiting STEP that finds a latched key (R83). -/
theorem cycle_completes (s : State) (h : s.isWaiting) (hk : s.keyValid = true) : cycle s = .next s.completeWait := by
  simp [cycle, h.1, h.2, hk]

/-- A Running STEP at a fetchable `pc` whose word decodes (R84, R85). -/
theorem cycle_decoded (s : State) (i : Instr) (h : s.fetches) (hi : decodeWord s.wordAtPc = some i) :
    cycle s = exec i s := by
  obtain ⟨hrun, hpc⟩ := h
  rw [cycle_running s hrun]
  rcases runInstruction_cases s with ⟨hout, -⟩ | ⟨-, j, hj, e⟩ | ⟨-, hnone, -⟩
  · omega
  · rw [e, Option.some.inj (hj.symm.trans hi)]
  · cases hnone.symm.trans hi

/-- A Running STEP at a fetchable `pc` whose word decodes to nothing (R211). -/
theorem cycle_unknown (s : State) (h : s.fetches) (hi : decodeWord s.wordAtPc = none) :
    cycle s = .next (s.raise .unknownOpcode) := by
  obtain ⟨hrun, hpc⟩ := h
  rw [cycle_running s hrun]
  rcases runInstruction_cases s with ⟨hout, -⟩ | ⟨-, j, hj, -⟩ | ⟨-, -, e⟩
  · omega
  · cases hj.symm.trans hi
  · exact e

/-- A Running STEP whose instruction does not lie inside memory (R84, R216). -/
theorem cycle_outside (s : State) (h : s.isRunning) (hpc : 0x0FFE < s.pc.toNat) :
    cycle s = .next (s.raise .memoryOutOfRange) := by
  rw [cycle_running s h]
  rcases runInstruction_cases s with ⟨-, e⟩ | ⟨hin, -⟩ | ⟨hin, -⟩
  · exact e
  · omega
  · omega

/-- The key index as the byte the Waiting STEP writes (R83). -/
theorem zextKey_eq_ofNat (k : Nibble) : zextKey k = BitVec.ofNat 8 k.toNat := by simp [zextKey]

end Sys2Proof.Machine

open Sys2Proof Sys2Proof.Machine

/-- Settles O9: the STEP fetches, decodes and executes. -/
theorem stepRunsTheDecodedInstruction : Obligations.StepRunsTheDecodedInstruction := by
  unfold Obligations.StepRunsTheDecodedInstruction
  exact fun s u i hu hf hi => hu.step_eq.trans (cycle_decoded u i hf hi)

/-- Settles O10: UnknownOpcode is a non-fatal error. -/
theorem unknownOpcodeIsReportedAndSkipped : Obligations.UnknownOpcodeIsReportedAndSkipped := by
  unfold Obligations.UnknownOpcodeIsReportedAndSkipped
  intro s u hu hf hi
  rw [hu.step_eq, cycle_unknown u hf hi, u.raise_nonFatal .unknownOpcode rfl]

/-- Settles O11: the Halted branch of the STEP. -/
theorem haltedStepRepeatsTheError : Obligations.HaltedStepRepeatsTheError := by
  unfold Obligations.HaltedStepRepeatsTheError
  exact fun s u k hu hh he => hu.step_eq.trans (cycle_halted u k hh he)

/-- Settles O12: the two Waiting branches of the STEP. -/
theorem waitingStepWaitsOrCompletes : Obligations.WaitingStepWaitsOrCompletes := by
  unfold Obligations.WaitingStepWaitsOrCompletes
  intro s u hu hw
  rw [hu.step_eq, ← zextKey_eq_ofNat]
  exact ⟨cycle_waiting u hw, cycle_completes u hw⟩

/-- Settles O13: a fetch outside memory is a fatal error. -/
theorem fetchOutsideMemoryHalts : Obligations.FetchOutsideMemoryHalts := by
  unfold Obligations.FetchOutsideMemoryHalts
  intro s u hu hrun hpc
  rw [hu.step_eq, cycle_outside u hrun hpc, u.raise_fatal .memoryOutOfRange rfl]
end

section
/-! The operations of the host (R81): each as the step performs it from the head of the agenda, the timers over any number of
TICKs, and the steps that answer no next state. -/

namespace Sys2Proof.Machine

/-- A step performs the operation at the head of the agenda, taken off it (R81; log 26). -/
theorem step_of_agenda {s : State} {op : Operation} {rest : List Operation} (h : s.agenda = op :: rest) :
    step s = perform op { s with agenda := rest } := by
  simp only [step, h]

/-- One TICK: down by 1, floored at 0 (R230). -/
@[simp] theorem toNat_tickTimer (t : Byte) : (tickTimer t).toNat = t.toNat - 1 := by
  have hlt := t.isLt
  have h0 : BitVec.toNat (0 : Byte) = 0 := rfl
  have h1 : BitVec.toNat (1 : Byte) = 1 := rfl
  unfold tickTimer
  split
  · rw [BitVec.toNat_sub, h1]
    omega
  · omega

theorem tickTimer_eq_ofNat (t : Byte) : tickTimer t = BitVec.ofNat 8 (t.toNat - 1) := by
  rw [← toNat_tickTimer, BitVec.ofNat_toNat, BitVec.setWidth_eq]

/-- n TICKs: down by n, floored at 0 (R188, R230). -/
theorem tick_iterate (n : Nat) (s : State) :
    (State.tick^[n] s).DT.toNat = s.DT.toNat - n ∧ (State.tick^[n] s).ST.toNat = s.ST.toNat - n := by
  induction n generalizing s with
  | zero => exact ⟨rfl, rfl⟩
  | succ n ih =>
    obtain ⟨hDT, hST⟩ := ih s.tick
    rw [Function.iterate_succ_apply, hDT, hST, State.tick_DT, State.tick_ST, toNat_tickTimer, toNat_tickTimer]
    omega

/-- When a KEY_WRITE is the press the wait is for (R173). -/
theorem State.latches_iff (k : Nibble) (v : Bool) (s : State) :
    s.latches k v = true ↔ s.waiting = true ∧ s.keyValid = false ∧ s.key k = false ∧ v = true := by
  simp [State.latches, and_assoc]

/-- A KEY_WRITE that is latched (R173). -/
theorem step_keyWrite_latched {s : State} {k : Nibble} {v : Bool} {rest : List Operation}
    (ha : s.agenda = .keyWrite k v :: rest) (h : s.latches k v = true) : step s = .next { s with
      agenda := rest, reply := none, keys := s.keys.set k.toNat v k.isLt, keyLatch := k, keyValid := true } := by
  rw [step_of_agenda ha]
  simp [perform, State.keyWrite, h]

/-- A KEY_WRITE that is not (R173). -/
theorem step_keyWrite_unlatched {s : State} {k : Nibble} {v : Bool} {rest : List Operation}
    (ha : s.agenda = .keyWrite k v :: rest) (h : ¬ s.latches k v = true) : step s = .next { s with
      agenda := rest, reply := none, keys := s.keys.set k.toNat v k.isLt } := by
  rw [step_of_agenda ha]
  simp [perform, State.keyWrite, h]

/-- A LOAD is admitted exactly when nothing has been loaded and no STEP has been made since RESET (R253). -/
theorem State.loadAdmitted_iff (s : State) : s.loadAdmitted = true ↔ s.loaded = false ∧ s.outcome = none := by
  simp [State.loadAdmitted]

/-- A STEP answers a next state (R87). -/
theorem cycle_next (s : State) : ∃ t, cycle s = .next t := by
  rcases cycle_cases s with ⟨-, e⟩ | ⟨-, -, e⟩ | ⟨-, -, e⟩ | ⟨-, e⟩
  · exact ⟨_, e⟩
  · exact ⟨_, e⟩
  · exact ⟨_, e⟩
  · rw [e]
    rcases runInstruction_cases s with ⟨-, e⟩ | ⟨-, i, -, e⟩ | ⟨-, -, e⟩
    · exact ⟨_, e⟩
    · rw [e]
      exact everyInstructionAnswersANextState i s
    · exact ⟨_, e⟩

/-- An admitted LOAD answers a next state (R253). -/
theorem State.loadProgram_next (prog : List Byte) (s : State) (h : s.loadAdmitted = true) :
    ∃ t, s.loadProgram prog = .next t := by
  rcases s.loadProgram_cases prog with ⟨-, -, e⟩ | ⟨-, -, e⟩ | ⟨hno, -⟩
  · exact ⟨_, e⟩
  · exact ⟨_, e⟩
  · cases h.symm.trans hno

/-- A LOAD out of its place is refused (R253). -/
theorem State.loadProgram_refused (prog : List Byte) (s : State) (h : s.loadAdmitted = false) :
    s.loadProgram prog = .refused .loadOutsideBoot := by
  rcases s.loadProgram_cases prog with ⟨hyes, -⟩ | ⟨hyes, -⟩ | ⟨-, e⟩
  · cases h.symm.trans hyes
  · cases h.symm.trans hyes
  · exact e

/-- Every operation, a LOAD if it is admitted, answers a next state (R81). -/
theorem perform_next (op : Operation) (s : State) (h : ∀ prog, op = .load prog → s.loadAdmitted = true) :
    ∃ t, perform op s = .next t := by
  cases op with
  | load prog => exact s.loadProgram_next prog (h prog rfl)
  | step => exact cycle_next s
  | _ => exact ⟨_, rfl⟩

end Sys2Proof.Machine

open Sys2Proof Sys2Proof.Machine

/-- Settles O32: the KEY_WRITE latches the key or not, and the STEP after it completes the wait or not. -/
theorem keyPressCompletesTheWait : Obligations.KeyPressCompletesTheWait := by
  unfold Obligations.KeyPressCompletesTheWait
  intro s k v hw hk ha
  have hlatch : s.latches k v = true ↔ s.key k = false ∧ v = true := by simp [State.latches_iff, hw.2, hk]
  have written : (s.keys.set k.toNat v k.isLt)[k.toNat]'k.isLt = v := Vector.getElem_set_self k.isLt
  by_cases h : s.key k = false ∧ v = true
  · exact ⟨_, _, step_keyWrite_latched ha (hlatch.2 h),
      (step_of_agenda (op := .step) rfl).trans (cycle_completes _ hw rfl), written,
      fun _ => ⟨⟨hw.1, rfl⟩, rfl, (State.reg_setReg_same _ s.waitX _).trans (zextKey_eq_ofNat k), rfl⟩,
      fun hn => absurd h hn⟩
  · exact ⟨_, _, step_keyWrite_unlatched ha (mt hlatch.1 h),
      (step_of_agenda (op := .step) rfl).trans (cycle_waiting _ hw hk), written,
      fun hy => absurd hy h, fun _ => ⟨hw, rfl, rfl, hk, rfl⟩⟩

/-- Settles O47: only a LOAD is ever refused, and only where it is not admitted. -/
theorem stepStopsOnlyForAMisplacedLoad : Obligations.StepStopsOnlyForAMisplacedLoad := by
  unfold Obligations.StepStopsOnlyForAMisplacedLoad
  intro s
  rcases step_cases s with ⟨ha, e⟩ | ⟨op, rest, ha, e⟩
  · have hadm : s.agendaAdmitted := fun prog rest h => by cases ha.symm.trans h
    exact ⟨fun _ => e ▸ cycle_next s, fun h => absurd hadm h⟩
  · refine ⟨fun h => e ▸ perform_next op _ fun prog hop => h prog rest (hop ▸ ha), fun h => ?_⟩
    simp only [State.agendaAdmitted, not_forall] at h
    obtain ⟨prog, rest', ha', hno⟩ := h
    rw [step_of_agenda ha']
    exact State.loadProgram_refused prog _ (Bool.eq_false_iff.2 hno)

/-- Settles O51: a TICK on each timer. -/
theorem tickCountsBothTimersDown : Obligations.TickCountsBothTimersDown := by
  unfold Obligations.TickCountsBothTimersDown
  intro s rest h
  rw [step_of_agenda h, ← tickTimer_eq_ofNat, ← tickTimer_eq_ofNat]
  rfl

/-- Settles O52: induction on the number of TICKs. -/
theorem timersReachZeroAndStay : Obligations.TimersReachZeroAndStay := by
  unfold Obligations.TimersReachZeroAndStay
  exact tick_iterate

/-- Settles O53: a KEY_WRITE that is latched, and one that is not. -/
theorem keyWriteSetsTheSlotAndMayLatch : Obligations.KeyWriteSetsTheSlotAndMayLatch := by
  unfold Obligations.KeyWriteSetsTheSlotAndMayLatch
  intro s k v rest ha
  rw [← State.latches_iff]
  refine ⟨fun h => ?_, step_keyWrite_unlatched ha⟩
  obtain ⟨-, -, -, rfl⟩ := (State.latches_iff k v s).1 h
  exact step_keyWrite_latched ha h

/-- Settles O54: an admitted program of at most 3584 bytes is a range written inside memory; a longer one halts; one not
admitted is refused. -/
theorem loadPlacesTheProgramOrHalts : Obligations.LoadPlacesTheProgramOrHalts := by
  unfold Obligations.LoadPlacesTheProgramOrHalts
  intro s prog rest ha
  rw [step_of_agenda ha]
  have loads := State.loadProgram_cases prog { s with agenda := rest }
  rw [State.loadAdmitted_withAgenda] at loads
  refine ⟨fun hm hl ho hlen => ?_, fun hl ho hlen => ?_, fun h => ?_⟩
  · have hin : progBase + prog.length ≤ memSize := by rw [progBase, memSize]; omega
    rcases loads with ⟨-, h', -⟩ | ⟨-, -, e⟩ | ⟨h', -⟩
    · rw [progMax, memSize, progBase] at h'
      omega
    · exact ⟨_, e, fun k => Memory.read_writeBytes_inside s.mem progBase k prog hm hin,
        fun a => Memory.read_writeBytes_outside s.mem progBase a prog hm hin, rfl⟩
    · cases h'.symm.trans (s.loadAdmitted_iff.2 ⟨hl, ho⟩)
  · rcases loads with ⟨-, -, e⟩ | ⟨-, h', -⟩ | ⟨h', -⟩
    · exact e
    · rw [progMax, memSize, progBase] at h'
      omega
    · cases h'.symm.trans (s.loadAdmitted_iff.2 ⟨hl, ho⟩)
  · refine State.loadProgram_refused prog _ (Bool.eq_false_iff.2 fun hadm => ?_)
    obtain ⟨hl, ho⟩ := s.loadAdmitted_iff.1 hadm
    exact h.elim (fun h => by simp [hl] at h) (fun h => h ho)

/-- Settles O55: RESET keeps the random source and the agenda only. -/
theorem resetRestoresEveryElement : Obligations.ResetRestoresEveryElement := by
  unfold Obligations.ResetRestoresEveryElement
  exact fun s rest h => step_of_agenda h

/-- Settles O56: each query as the step performs it. -/
theorem queriesAnswerAndChangeNothing : Obligations.QueriesAnswerAndChangeNothing := by
  unfold Obligations.QueriesAnswerAndChangeNothing
  exact fun s rest => ⟨fun x y h => step_of_agenda h, fun h => step_of_agenda h, fun h => step_of_agenda h⟩

/-- Settles O57: the reset state's own fields; empty memory reads as the font. -/
theorem resetLeavesTheValuesTheSourceStates : Obligations.ResetLeavesTheValuesTheSourceStates := by
  unfold Obligations.ResetLeavesTheValuesTheSourceStates
  refine ⟨rfl, rfl, rfl, rfl, Framebuffer.pixel_clear, fun k hk => ?_⟩
  show Memory.unlisted (0x50 + k) = _
  rw [Memory.unlisted, dif_pos (by omega)]
  simp [fontBytes]

/-- Settles O58: the reset state's own fields; empty memory reads 0 outside the font. -/
theorem resetLeavesTheDecidedZeros : Obligations.ResetLeavesTheDecidedZeros := by
  unfold Obligations.ResetLeavesTheDecidedZeros
  exact ⟨fun r => Vector.getElem_replicate r.isLt, rfl, fun k => Vector.getElem_replicate k.isLt,
    fun k hk => Vector.getElem_replicate hk, rfl, ⟨rfl, rfl⟩, rfl, rfl, unlisted_outside_font⟩
end

section
/-! The invariant (R14, R15, R22, R23, R26): it holds after RESET, and each entry, each instruction and each operation keeps
it. A Waiting core is inert (R176). -/

namespace Sys2Proof.Machine

/-- The default advance and the skip, on addresses inside memory: no wrap of the 16 bits (R14). -/
theorem toNat_pc_add (pc : Word) (d : Nat) (hd : d ≤ 4) (h : pc.toNat ≤ 0x0FFE) :
    (pc + BitVec.ofNat 16 d).toNat = pc.toNat + d := by
  rw [BitVec.toNat_add, BitVec.toNat_ofNat]
  omega

/-- No instruction fetched inside memory leaves a `pc` above 0x10FE, the largest sum of JP_V0 (R14, R104). -/
theorem PcAfter.le {i : Instr} {s : State} {pc : Word} (h : PcAfter i s pc) (hs : s.Inv) (hpc : s.pc.toNat ≤ 0x0FFE) :
    pc.toNat ≤ 0x10FE := by
  have h2 : (s.pc + 2).toNat = s.pc.toNat + 2 := toNat_pc_add s.pc 2 (by decide) hpc
  have h4 : (s.pc + 4).toNat = s.pc.toNat + 4 := toNat_pc_add s.pc 4 (by decide) hpc
  have skip (c : Prop) [Decidable c] : (if c then s.pc + 4 else s.pc + 2).toNat ≤ 0x10FE := by
    split <;> omega
  cases i
  case jp nnn | call nnn =>
    have hlt := nnn.isLt
    simp only [PcAfter] at h
    omega
  case jpV0 nnn =>
    have hlt := nnn.isLt
    have hv := (s.reg 0).isLt
    simp only [PcAfter] at h
    omega
  case ret =>
    obtain ⟨hsp, rfl⟩ := h
    have hslot := hs.stackBound (s.sp.val - 1) (by omega) (by omega)
    omega
  case seImm | sneImm | seReg | sneReg | skp | sknp =>
    rw [show pc = _ from h]
    exact skip _
  case ldVxK =>
    rw [show pc = s.pc from h]
    omega
  all_goals
    rw [show pc = s.pc + 2 from h]
    omega

namespace State.Inv

variable {s : State}

/-- A core that is not Waiting enters Halted mode with a fatal kind (R216, R253). -/
theorem of_halts (h : s.Inv) (hw : s.waiting = false) {k : ErrorKind} (hk : k.isFatal = true) (o : Option StepOutcome) :
    State.Inv { s with halted := true, err := some k, outcome := o } :=
  { h with
    oneMode := fun ⟨hw', _⟩ => by simp [hw] at hw'
    waitingAfterAStep := fun hw' => by simp [hw] at hw'
    haltedHasAKind := iff_of_true rfl rfl
    kindIsFatal := fun _ e => Option.some.inj e ▸ hk }

theorem of_raise_fatal (h : s.Inv) (hw : s.waiting = false) {k : ErrorKind} (hk : k.isFatal = true) : (s.raise k).Inv :=
  s.raise_fatal k hk ▸ h.of_halts hw hk _

/-- UnknownOpcode, fetched inside memory, is skipped (R211). -/
theorem of_raise_unknownOpcode (h : s.Inv) (hw : s.waiting = false) (hpc : s.pc.toNat ≤ 0x0FFE) :
    (s.raise .unknownOpcode).Inv := by
  rw [s.raise_nonFatal .unknownOpcode rfl]
  have h2 : (s.pc + 2).toNat = s.pc.toNat + 2 := toNat_pc_add s.pc 2 (by decide) hpc
  exact { h with
    waitingAfterAStep := fun _ => rfl
    pcBound := by simp only [h2]; omega
    waitingPc := fun hw' => by simp [hw] at hw' }

/-- An instruction fetched inside memory by a Running core keeps the invariant. -/
theorem of_exec (h : s.Inv) (hrun : s.isRunning) (hpc : s.pc.toNat ≤ 0x0FFE) {i : Instr} {t : State}
    (ht : exec i s = .next t) : t.Inv := by
  obtain ⟨hh, hw⟩ := hrun
  rcases exec_next_cases ht with ⟨-, k, hk, rfl⟩ | ⟨-, hc⟩
  · exact h.of_raise_fatal hw hk
  · exact {
      memCanonical := hc.memWf h.memCanonical
      latchOnlyWhileWaiting := fun hv => absurd (h.latchOnlyWhileWaiting (hc.latch hv)) (by simp [hw])
      oneMode := fun ⟨_, hh'⟩ => by simp [hc.halted, hh] at hh'
      waitingAfterAStep := fun _ => hc.outcome
      haltedHasAKind := by rw [hc.halted, hc.err]; exact h.haltedHasAKind
      kindIsFatal := by rw [hc.err]; exact h.kindIsFatal
      pcBound := hc.pcAfter.le h hpc
      waitingPc := fun hw' => by
        by_cases hi : ∃ x, i = .ldVxK x
        · obtain ⟨x, rfl⟩ := hi
          rwa [show t.pc = s.pc from hc.pcAfter]
        · rw [hc.waiting (not_exists.1 hi), hw] at hw'
          cases hw'
      stackBound := fun k hk hlt => by
        rcases hc.slots k hk hlt with ⟨hlt', e⟩ | e
        · rw [e]
          exact h.stackBound k hk hlt'
        · have h2 : (s.pc + 2).toNat = s.pc.toNat + 2 := toNat_pc_add s.pc 2 (by decide) hpc
          rw [e, h2]
          omega }

/-- The Waiting STEP that finds a latched key passes the `Fx0A` (R83). -/
theorem of_completeWait (h : s.Inv) (hw : s.waiting = true) : s.completeWait.Inv := by
  have h2 : (s.pc + 2).toNat = s.pc.toNat + 2 := toNat_pc_add s.pc 2 (by decide) (h.waitingPc hw)
  have hpc := h.waitingPc hw
  exact { h with
    latchOnlyWhileWaiting := fun hv => absurd hv Bool.false_ne_true
    oneMode := fun ⟨hw', _⟩ => absurd hw' Bool.false_ne_true
    waitingAfterAStep := fun _ => rfl
    pcBound := by rw [State.completeWait_pc, h2]; omega
    waitingPc := fun hw' => absurd hw' Bool.false_ne_true }

/-- A STEP keeps the invariant, in every mode. -/
theorem of_cycle (h : s.Inv) {t : State} (ht : cycle s = .next t) : t.Inv := by
  rcases cycle_cases s with ⟨hh, e⟩ | ⟨hw, -, e⟩ | ⟨hw, -, e⟩ | ⟨hrun, e⟩
  case inl =>
    obtain rfl := Host.Outcome.next.inj (e.symm.trans ht)
    exact { h with waitingAfterAStep := fun hw => absurd ⟨hw, hh⟩ h.oneMode }
  case inr.inl =>
    obtain rfl := Host.Outcome.next.inj (e.symm.trans ht)
    exact h.of_completeWait hw.2
  case inr.inr.inl =>
    obtain rfl := Host.Outcome.next.inj (e.symm.trans ht)
    exact { h with waitingAfterAStep := fun _ => rfl }
  case inr.inr.inr =>
    rw [e] at ht
    rcases runInstruction_cases s with ⟨-, e⟩ | ⟨hpc, i, -, e⟩ | ⟨hpc, -, e⟩ <;> rw [e] at ht
    · exact Host.Outcome.next.inj ht ▸ h.of_raise_fatal hrun.2 rfl
    · exact h.of_exec hrun hpc ht
    · exact Host.Outcome.next.inj ht ▸ h.of_raise_unknownOpcode hrun.2 hpc

/-- A latch is made only while Waiting (R173, R26). -/
theorem of_keyWrite (h : s.Inv) (k : Nibble) (v : Bool) : (s.keyWrite k v).Inv :=
  { h with
    latchOnlyWhileWaiting := fun hv => (Bool.or_eq_true_iff.1 hv).elim h.latchOnlyWhileWaiting
      fun hl => ((State.latches_iff k v s).1 hl).1 }

/-- A LOAD is admitted before any STEP only, so never while Waiting (R172, R253). -/
theorem loadAdmitted_of_waiting (h : s.Inv) (hw : s.waiting = true) : s.loadAdmitted = false := by
  rw [Bool.eq_false_iff, Ne, State.loadAdmitted_iff]
  rintro ⟨-, ho⟩
  exact absurd (h.waitingAfterAStep hw) (by simp [ho])

/-- A LOAD that is too long halts the core, any other one writes bytes inside memory (R253). -/
theorem of_loadProgram (h : s.Inv) {prog : List Byte} {t : State} (ht : s.loadProgram prog = .next t) : t.Inv := by
  rcases s.loadProgram_cases prog with ⟨hadm, -, e⟩ | ⟨-, hlen, e⟩ | ⟨-, e⟩
  · obtain rfl := Host.Outcome.next.inj (e.symm.trans ht)
    have hw : s.waiting = false :=
      Bool.eq_false_iff.2 fun hw => Bool.eq_false_iff.1 (h.loadAdmitted_of_waiting hw) hadm
    exact { h.of_halts hw (k := .loadTooLarge) rfl s.outcome with }
  · obtain rfl := Host.Outcome.next.inj (e.symm.trans ht)
    have hin : progBase + prog.length ≤ memSize := by
      rw [progMax] at hlen
      exact Nat.add_le_of_le_sub' (by decide) hlen
    exact { h with memCanonical := Memory.writeBytes_wf s.mem progBase prog h.memCanonical (.inr hin) }
  · cases e.symm.trans ht

/-- The state after RESET (R27). -/
theorem reset : State.reset.Inv where
  memCanonical := Memory.wf_nil
  latchOnlyWhileWaiting := fun h => absurd h Bool.false_ne_true
  oneMode := fun ⟨h, _⟩ => absurd h Bool.false_ne_true
  waitingAfterAStep := fun h => absurd h Bool.false_ne_true
  haltedHasAKind := iff_of_false Bool.false_ne_true Bool.false_ne_true
  kindIsFatal := fun k h => absurd h (Option.some_ne_none k).symm
  pcBound := by decide
  waitingPc := fun h => absurd h Bool.false_ne_true
  stackBound := fun k _ h => absurd h (Nat.not_lt_zero k)

/-- Every operation keeps the invariant. -/
theorem of_perform (h : s.Inv) {op : Operation} {t : State} (ht : perform op s = .next t) : t.Inv := by
  cases op with
  | reset => exact Host.Outcome.next.inj ht ▸ { State.Inv.reset with }
  | load prog => exact h.of_loadProgram ht
  | step => exact h.of_cycle ht
  | keyWrite k v => exact Host.Outcome.next.inj ht ▸ h.of_keyWrite k v
  | tick | pixelQuery | dirtyConsume | timerObserve => exact Host.Outcome.next.inj ht ▸ { h with }

/-- Every step keeps the invariant. -/
theorem of_step (h : s.Inv) {t : State} (ht : step s = .next t) : t.Inv := by
  rcases step_cases s with ⟨-, e⟩ | ⟨op, rest, -, e⟩
  · exact h.of_cycle (e.symm.trans ht)
  · have h' : State.Inv { s with agenda := rest } := { h with }
    exact h'.of_perform (e.symm.trans ht)

end State.Inv

end Sys2Proof.Machine

open Sys2Proof Sys2Proof.Machine

/-- Settles O48: no LOAD is admitted while Waiting, and every other operation writes the listed elements only. -/
theorem waitingCoreIsInert : Obligations.WaitingCoreIsInert := by
  unfold Obligations.WaitingCoreIsInert
  intro op s t h hw hreset hstep ht
  cases op with
  | reset => exact absurd rfl hreset
  | load prog =>
    cases (State.loadProgram_refused prog s (h.loadAdmitted_of_waiting hw.2)).symm.trans ht
  | step =>
    obtain rfl := Host.Outcome.next.inj ((cycle_waiting s hw (hstep rfl)).symm.trans ht)
    rfl
  | tick | keyWrite | pixelQuery | dirtyConsume | timerObserve =>
    obtain rfl := Host.Outcome.next.inj ht
    rfl

/-- Settles O49: clause by clause from the reset values. -/
theorem resetMeetsTheInvariant : Obligations.ResetMeetsTheInvariant := by
  unfold Obligations.ResetMeetsTheInvariant
  exact State.Inv.reset

/-- Settles O50: a step performs one operation, and every operation keeps the invariant. -/
theorem stepKeepsTheInvariant : Obligations.StepKeepsTheInvariant := by
  unfold Obligations.StepKeepsTheInvariant
  exact fun s t h ht => h.of_step ht
end
